-- ==== Sys2Proof/Word.lean ====
section
/-! DEFINITION. The word types of the block (00_scope.md R7, R9): a byte has bits 7..0, a word has bits
15..0, a command word has bits 31..0, and bit 0 is the least significant. -/

namespace Sys2Proof

/-- Unsigned 8-bit integer (R7, R14). -/
abbrev Byte := BitVec 8

/-- Unsigned 16-bit integer (R7, R14). -/
abbrev Word := BitVec 16

/-- A command word `cmd[31:0]` (30_encoding.md R70). -/
abbrev CmdWord := BitVec 32

end Sys2Proof
end

