-- ==== Sys2Proof/Config.lean ====
section
/-! DEFINITION. The named parameters of the block (00_scope.md R8): the open reset values, and the flag binding
`FLAG_POS` with its default, which State carries (log 3). -/

namespace Sys2Proof.Config

/-- `RESET_REG8[i]` (R8, R36): "unspecified: any byte, universally quantified". The first argument is the
number of resets before this one, since a reset promises to keep nothing (70_reset_and_hazards.md R250).
Free value: it has no body. DESIGN CHOICE, log 1 and 2. -/
opaque resetReg8 : Nat → Nat → Byte

/-- `RESET_REG16[i]` (R8, R36). Free value, as `resetReg8`. DESIGN CHOICE, log 1 and 2. -/
opaque resetReg16 : Nat → Nat → Word

/-- `RESET_FHI` (R8, R36), the value of F[7:4]. Free value, as `resetReg8`. DESIGN CHOICE, log 1 and 2. -/
opaque resetFhi : Nat → BitVec 4

/-- The four positions are an injective map of the flags to 7, 6, 5, 4 (R8). -/
def isFlagPos (z n h c : Nat) : Bool :=
  [z, n, h, c].all (fun p => decide (4 ≤ p ∧ p ≤ 7)) && decide [z, n, h, c].Nodup

/-- The parameter `FLAG_POS` (R8, R27): the position of each flag in F. The type holds every injective map of the
four flags to the positions 7, 6, 5, 4 and nothing else. -/
structure FlagPos where
  zero      : Nat
  subtract  : Nat
  halfCarry : Nat
  carry     : Nat
  valid     : isFlagPos zero subtract halfCarry carry = true
  deriving DecidableEq, Repr

/-- The default of `FLAG_POS`: Zero 7, Subtract 6, HalfCarry 5, Carry 4 (10_state.md R27). -/
def defaultFlagPos : FlagPos := { zero := 7, subtract := 6, halfCarry := 5, carry := 4, valid := by decide }

end Sys2Proof.Config
end

