-- ==== Sys2Proof/Syntax.lean ====
section
/-! DEFINITION. The commands of the block as data: one constructor of `Instr` per row of
spec/opcode_table.json. Selectors and flags are closed types, "statically unrepresentable if modeled as a
closed type" (30_encoding.md R77), so a decoded command names only holders and flags that exist. -/

namespace Sys2Proof

/-- The four flags, in the order of their flag ids 0..3 (30_encoding.md R77, 40_flag_register.md R105). -/
inductive Flag where
  | zero | subtract | halfCarry | carry
  deriving DecidableEq, Repr

/-- The seven 8-bit holders, in the order of their selectors 0..6 (10_state.md R22). -/
inductive Reg8 where
  | a | b | c | d | e | h | l
  deriving DecidableEq, Repr

/-- The five 16-bit holders, in the order of their selectors 0..4 (10_state.md R23). -/
inductive Reg16 where
  | bc | de | hl | sp | pc
  deriving DecidableEq, Repr

/-- The second operand of a two-operand 8-bit command: a holder (m = 0) or an immediate (m = 1)
(30_encoding.md R74). -/
inductive Src8 where
  | reg (r : Reg8)
  | imm (v : Byte)
  deriving DecidableEq, Repr

/-- The second operand of ADD16 (30_encoding.md R74). -/
inductive Src16 where
  | reg (r : Reg16)
  | imm (v : Word)
  deriving DecidableEq, Repr

/-- The causes of the one exception `Fault(cause)` (60_exceptions.md R221); "none" is not a cause that can be
raised. -/
inductive FaultCause where
  | illegalOp | illegalForm | illegalSelector
  deriving DecidableEq, Repr

/-- The twenty operations of 30_encoding.md R73. -/
inductive Op where
  | raise | clear | toggle | check | resetAll
  | inc8 | dec8 | add8 | adc8 | sub8 | sbc8
  | inc16 | dec16 | add16
  | rd8 | wr8 | rd16 | wr16 | rdf | wrf
  deriving DecidableEq, Repr

/-- The nine formats of 30_encoding.md R72. -/
inductive Format where
  | n | fl | r1 | r2 | ri | w1 | w2 | wi | fi
  deriving DecidableEq, Repr

/-- A legal command: one constructor per row of spec/opcode_table.json (30_encoding.md R73). -/
inductive Instr where
  | raise    (f : Flag)
  | clear    (f : Flag)
  | toggle   (f : Flag)
  | check    (f : Flag)
  | resetAll
  | inc8     (rd : Reg8)
  | dec8     (rd : Reg8)
  | add8Reg  (rd rs : Reg8)
  | add8Imm  (rd : Reg8) (imm : Byte)
  | adc8Reg  (rd rs : Reg8)
  | adc8Imm  (rd : Reg8) (imm : Byte)
  | sub8Reg  (rd rs : Reg8)
  | sub8Imm  (rd : Reg8) (imm : Byte)
  | sbc8Reg  (rd rs : Reg8)
  | sbc8Imm  (rd : Reg8) (imm : Byte)
  | inc16    (rd : Reg16)
  | dec16    (rd : Reg16)
  | add16Reg (rd rs : Reg16)
  | add16Imm (rd : Reg16) (imm : Word)
  | rd8      (rd : Reg8)
  | wr8      (rd : Reg8) (imm : Byte)
  | rd16     (rd : Reg16)
  | wr16     (rd : Reg16) (imm : Word)
  | rdf
  | wrf      (imm : Byte)
  deriving DecidableEq, Repr

end Sys2Proof
end

