-- ==== Sys2Proof/WellFormed.lean ====
section
/-! DEFINITION. Well-formedness. The terms of `Instr` are closed (a selector or flag that does not exist cannot
be written), so what can be ill-formed is a command WORD. This file says, as a table of masks and patterns read
from spec/opcode_table.json, which words are legal (30_encoding.md R72, R73, R78, R84). The decoder of
Sys2Proof/Decode.lean is written separately, from the op codes and must-be-zero fields, and the two are compared
by statements. -/

namespace Sys2Proof

/-- A row of spec/opcode_table.json: "a word w is an instance of a row when `(w & mask) == match`" (R72). -/
structure Row where
  mnemonic : String
  format   : Format
  mask     : CmdWord
  pattern  : CmdWord
  deriving DecidableEq, Repr

/-- The row of each command (spec/opcode_table.json; 30_encoding.md R72, R73). -/
def Instr.row : Instr → Row
  | .raise _ => ⟨"RAISE", .fl, 0xFCFFFFFF, 0x08000000⟩
  | .clear _ => ⟨"CLEAR", .fl, 0xFCFFFFFF, 0x10000000⟩
  | .toggle _ => ⟨"TOGGLE", .fl, 0xFCFFFFFF, 0x18000000⟩
  | .check _ => ⟨"CHECK", .fl, 0xFCFFFFFF, 0x20000000⟩
  | .resetAll => ⟨"RESETALL", .n, 0xFFFFFFFF, 0x28000000⟩
  | .inc8 _ => ⟨"INC8", .r1, 0xF8FFFFFF, 0x40000000⟩
  | .dec8 _ => ⟨"DEC8", .r1, 0xF8FFFFFF, 0x48000000⟩
  | .add8Reg _ _ => ⟨"ADD8", .r2, 0xF88FFFFF, 0x50000000⟩
  | .add8Imm _ _ => ⟨"ADD8", .ri, 0xF8FFFF00, 0x50800000⟩
  | .adc8Reg _ _ => ⟨"ADC8", .r2, 0xF88FFFFF, 0x58000000⟩
  | .adc8Imm _ _ => ⟨"ADC8", .ri, 0xF8FFFF00, 0x58800000⟩
  | .sub8Reg _ _ => ⟨"SUB8", .r2, 0xF88FFFFF, 0x60000000⟩
  | .sub8Imm _ _ => ⟨"SUB8", .ri, 0xF8FFFF00, 0x60800000⟩
  | .sbc8Reg _ _ => ⟨"SBC8", .r2, 0xF88FFFFF, 0x68000000⟩
  | .sbc8Imm _ _ => ⟨"SBC8", .ri, 0xF8FFFF00, 0x68800000⟩
  | .inc16 _ => ⟨"INC16", .w1, 0xF8FFFFFF, 0x80000000⟩
  | .dec16 _ => ⟨"DEC16", .w1, 0xF8FFFFFF, 0x88000000⟩
  | .add16Reg _ _ => ⟨"ADD16", .w2, 0xF88FFFFF, 0x90000000⟩
  | .add16Imm _ _ => ⟨"ADD16", .wi, 0xF8FF0000, 0x90800000⟩
  | .rd8 _ => ⟨"RD8", .r1, 0xF8FFFFFF, 0xC0000000⟩
  | .wr8 _ _ => ⟨"WR8", .ri, 0xF8FFFF00, 0xC8800000⟩
  | .rd16 _ => ⟨"RD16", .w1, 0xF8FFFFFF, 0xD0000000⟩
  | .wr16 _ _ => ⟨"WR16", .wi, 0xF8FF0000, 0xD8800000⟩
  | .rdf => ⟨"RDF", .n, 0xFFFFFFFF, 0xE0000000⟩
  | .wrf _ => ⟨"WRF", .fi, 0xFFFFFF00, 0xE8800000⟩

/-- One command of each row, in the table's order, to list the rows by. -/
def rowSamples : List Instr :=
  [.raise .zero, .clear .zero, .toggle .zero, .check .zero, .resetAll] ++
  [.inc8 .a, .dec8 .a, .add8Reg .a .a, .add8Imm .a 0, .adc8Reg .a .a] ++
  [.adc8Imm .a 0, .sub8Reg .a .a, .sub8Imm .a 0, .sbc8Reg .a .a, .sbc8Imm .a 0] ++
  [.inc16 .bc, .dec16 .bc, .add16Reg .bc .bc, .add16Imm .bc 0, .rd8 .a] ++
  [.wr8 .a 0, .rd16 .bc, .wr16 .bc 0, .rdf, .wrf 0]

/-- The 25 rows of spec/opcode_table.json. -/
def opcodeRows : List Row := rowSamples.map Instr.row

/-- The word is an instance of the row (R72). -/
def Row.isInstance (r : Row) (w : CmdWord) : Bool := w &&& r.mask == r.pattern

/-- Check 1: `cmd[31:27]` is one of the assigned op codes (R73, R84). -/
def opAssigned (w : CmdWord) : Bool :=
  opcodeRows.any (fun r => w >>> 27 == r.pattern >>> 27)

/-- Check 2: the word is an instance of some row (R72, R84). -/
def formCorrect (w : CmdWord) : Bool := opcodeRows.any (fun r => r.isInstance w)

/-- The selectors of a word under a format name holders: an `r8` field is below 7, an `r16` field below 5
(R76). -/
def Format.selectorsNamed (fmt : Format) (w : CmdWord) : Bool :=
  let rd := (w >>> 24 &&& 7).toNat
  let rs := (w >>> 20 &&& 7).toNat
  match fmt with
  | .n | .fl | .fi => true
  | .r1 | .ri => rd < 7
  | .r2 => rd < 7 && rs < 7
  | .w1 | .wi => rd < 5
  | .w2 => rd < 5 && rs < 5

/-- Check 3: every selector the word's row uses names a holder (R76, R84). -/
def selectorsNamed (w : CmdWord) : Bool :=
  opcodeRows.all (fun r => !r.isInstance w || r.format.selectorsNamed w)

/-- A well-formed (legal) command word: it passes the three checks (R84). -/
def wellFormedWord (w : CmdWord) : Bool := opAssigned w && formCorrect w && selectorsNamed w

end Sys2Proof
end

