-- ==== Sys2Proof/Decode.lean ====
section
/-! DEFINITION. The decoder, total on all 2^32 command words and rejecting by the name of a fault cause
(30_encoding.md R78), and after it the encoder (R79). -/

namespace Sys2Proof

/-! ### The fields of a command word (30_encoding.md R71) -/

/-- `op = cmd[31:27]`. -/
def opField (w : CmdWord) : BitVec 5 := w.extractLsb' 27 5

/-- `rd = cmd[26:24]`. -/
def rdField (w : CmdWord) : BitVec 3 := w.extractLsb' 24 3

/-- The flag id `f = cmd[25:24]` (R77). -/
def flagField (w : CmdWord) : BitVec 2 := w.extractLsb' 24 2

/-- `m = cmd[23]`. -/
def mField (w : CmdWord) : Bool := w.getLsbD 23

/-- `rs = cmd[22:20]`. -/
def rsField (w : CmdWord) : BitVec 3 := w.extractLsb' 20 3

/-- `imm8 = cmd[7:0]` (R75). -/
def imm8Field (w : CmdWord) : Byte := w.extractLsb' 0 8

/-- `imm16 = cmd[15:0]` (R75). -/
def imm16Field (w : CmdWord) : Word := w.extractLsb' 0 16

/-! ### The tables -/

/-- The operation of an op code; `none` for an unassigned one (R73, R84). -/
def opcode? : BitVec 5 → Option Op
  | 0x01 => some .raise
  | 0x02 => some .clear
  | 0x03 => some .toggle
  | 0x04 => some .check
  | 0x05 => some .resetAll
  | 0x08 => some .inc8
  | 0x09 => some .dec8
  | 0x0A => some .add8
  | 0x0B => some .adc8
  | 0x0C => some .sub8
  | 0x0D => some .sbc8
  | 0x10 => some .inc16
  | 0x11 => some .dec16
  | 0x12 => some .add16
  | 0x18 => some .rd8
  | 0x19 => some .wr8
  | 0x1A => some .rd16
  | 0x1B => some .wr16
  | 0x1C => some .rdf
  | 0x1D => some .wrf
  | _ => none

/-- The format of an operation for a value of m; `none` where the operation has no form with that m
(R73, R74). -/
def Op.format? : Op → Bool → Option Format
  | .raise, false | .clear, false | .toggle, false | .check, false => some .fl
  | .resetAll, false | .rdf, false => some .n
  | .inc8, false | .dec8, false | .rd8, false => some .r1
  | .add8, false | .adc8, false | .sub8, false | .sbc8, false => some .r2
  | .add8, true | .adc8, true | .sub8, true | .sbc8, true | .wr8, true => some .ri
  | .inc16, false | .dec16, false | .rd16, false => some .w1
  | .add16, false => some .w2
  | .add16, true | .wr16, true => some .wi
  | .wrf, true => some .fi
  | .raise, true | .clear, true | .toggle, true | .check, true => none
  | .resetAll, true | .rdf, true | .inc8, true | .dec8, true | .rd8, true => none
  | .inc16, true | .dec16, true | .rd16, true => none
  | .wr8, false | .wr16, false | .wrf, false => none

/-- The bits that must be zero in a format, beyond op and m (R72, column mbz). -/
def Format.mbz : Format → CmdWord
  | .n => 0x077FFFFF          -- 26:24, 22:0
  | .fl => 0x047FFFFF         -- 26, 22:0
  | .r1 | .w1 => 0x007FFFFF   -- 22:0
  | .r2 | .w2 => 0x000FFFFF   -- 19:0
  | .ri => 0x007FFF00         -- 22:8
  | .wi => 0x007F0000         -- 22:16
  | .fi => 0x077FFF00         -- 26:24, 22:8

/-- The 8-bit holder of a selector; 7 names nothing (R76). -/
def reg8? : BitVec 3 → Option Reg8
  | 0 => some .a
  | 1 => some .b
  | 2 => some .c
  | 3 => some .d
  | 4 => some .e
  | 5 => some .h
  | 6 => some .l
  | _ => none

/-- The 16-bit holder of a selector; 5, 6 and 7 name nothing (R76). -/
def reg16? : BitVec 3 → Option Reg16
  | 0 => some .bc
  | 1 => some .de
  | 2 => some .hl
  | 3 => some .sp
  | 4 => some .pc
  | _ => none

/-- The flag of a flag id; every id is a flag (R77). -/
def flagOfId : BitVec 2 → Flag
  | 0 => .zero
  | 1 => .subtract
  | 2 => .halfCarry
  | _ => .carry

/-! ### Operands of a word whose form is correct (R78 step 3) -/

/-- A command with one 8-bit holder in `rd`. -/
def withR8 (w : CmdWord) (k : Reg8 → Instr) : Except FaultCause Instr :=
  match reg8? (rdField w) with
  | some rd => .ok (k rd)
  | none => .error .illegalSelector

/-- A command with 8-bit holders in `rd` and `rs`. -/
def withR8R8 (w : CmdWord) (k : Reg8 → Reg8 → Instr) : Except FaultCause Instr :=
  match reg8? (rdField w), reg8? (rsField w) with
  | some rd, some rs => .ok (k rd rs)
  | _, _ => .error .illegalSelector

/-- A command with one 16-bit holder in `rd`. -/
def withR16 (w : CmdWord) (k : Reg16 → Instr) : Except FaultCause Instr :=
  match reg16? (rdField w) with
  | some rd => .ok (k rd)
  | none => .error .illegalSelector

/-- A command with 16-bit holders in `rd` and `rs`. -/
def withR16R16 (w : CmdWord) (k : Reg16 → Reg16 → Instr) : Except FaultCause Instr :=
  match reg16? (rdField w), reg16? (rsField w) with
  | some rd, some rs => .ok (k rd rs)
  | _, _ => .error .illegalSelector

/-- An 8-bit command that has a register and an immediate form: m selects (R74). -/
def withSrc8 (w : CmdWord) (reg : Reg8 → Reg8 → Instr) (imm : Reg8 → Byte → Instr) :
    Except FaultCause Instr :=
  if mField w then withR8 w (fun rd => imm rd (imm8Field w)) else withR8R8 w reg

/-- The command of an operation whose form has been checked (R78 steps 3 and 4). -/
def Op.operands (op : Op) (w : CmdWord) : Except FaultCause Instr :=
  match op with
  | .raise => .ok (.raise (flagOfId (flagField w)))
  | .clear => .ok (.clear (flagOfId (flagField w)))
  | .toggle => .ok (.toggle (flagOfId (flagField w)))
  | .check => .ok (.check (flagOfId (flagField w)))
  | .resetAll => .ok .resetAll
  | .inc8 => withR8 w .inc8
  | .dec8 => withR8 w .dec8
  | .add8 => withSrc8 w .add8Reg .add8Imm
  | .adc8 => withSrc8 w .adc8Reg .adc8Imm
  | .sub8 => withSrc8 w .sub8Reg .sub8Imm
  | .sbc8 => withSrc8 w .sbc8Reg .sbc8Imm
  | .inc16 => withR16 w .inc16
  | .dec16 => withR16 w .dec16
  | .add16 =>
    if mField w then withR16 w (fun rd => .add16Imm rd (imm16Field w)) else withR16R16 w .add16Reg
  | .rd8 => withR8 w .rd8
  | .wr8 => withR8 w (fun rd => .wr8 rd (imm8Field w))
  | .rd16 => withR16 w .rd16
  | .wr16 => withR16 w (fun rd => .wr16 rd (imm16Field w))
  | .rdf => .ok .rdf
  | .wrf => .ok (.wrf (imm8Field w))

/-- The decoder: the first failing step of R78 names the cause (60_exceptions.md R225). -/
def decode (w : CmdWord) : Except FaultCause Instr :=
  match opcode? (opField w) with
  | none => .error .illegalOp
  | some op =>
    match op.format? (mField w) with
    | none => .error .illegalForm
    | some fmt => if w &&& fmt.mbz = 0 then op.operands w else .error .illegalForm

/-- The command a table row's word stands for: the whole word is one 32-bit number, which has no byte order
(20_memory.md R52), and the bits above `nbits` are zero. -/
def decodeTableWord (nbits w : Nat) : Option Instr :=
  match decode (BitVec.ofNat 32 (w % 2 ^ nbits)) with
  | .ok i => some i
  | .error _ => none

/-! ### The encoder -/

/-- The op code of each operation (R73). -/
def Op.code : Op → BitVec 5
  | .raise => 0x01
  | .clear => 0x02
  | .toggle => 0x03
  | .check => 0x04
  | .resetAll => 0x05
  | .inc8 => 0x08
  | .dec8 => 0x09
  | .add8 => 0x0A
  | .adc8 => 0x0B
  | .sub8 => 0x0C
  | .sbc8 => 0x0D
  | .inc16 => 0x10
  | .dec16 => 0x11
  | .add16 => 0x12
  | .rd8 => 0x18
  | .wr8 => 0x19
  | .rd16 => 0x1A
  | .wr16 => 0x1B
  | .rdf => 0x1C
  | .wrf => 0x1D

/-- The selector of an 8-bit holder (10_state.md R22). -/
def Reg8.code : Reg8 → BitVec 3
  | .a => 0
  | .b => 1
  | .c => 2
  | .d => 3
  | .e => 4
  | .h => 5
  | .l => 6

/-- The selector of a 16-bit holder (10_state.md R23). -/
def Reg16.code : Reg16 → BitVec 3
  | .bc => 0
  | .de => 1
  | .hl => 2
  | .sp => 3
  | .pc => 4

/-- The flag id (R77), in the three bits of the `rd` field, whose top bit is zero. -/
def Flag.code : Flag → BitVec 3
  | .zero => 0
  | .subtract => 1
  | .halfCarry => 2
  | .carry => 3

/-- `enc(op, rd, m, rs, imm)` (R79). -/
def enc (op : BitVec 5) (rd : BitVec 3) (m : Bool) (rs : BitVec 3) (imm : Word) : CmdWord :=
  op.setWidth 32 <<< 27 ||| rd.setWidth 32 <<< 24 ||| (BitVec.ofBool m).setWidth 32 <<< 23 |||
    rs.setWidth 32 <<< 20 ||| imm.setWidth 32

/-- The word of a command (R73, R79); unused fields are 0. -/
def encode : Instr → CmdWord
  | .raise f => enc Op.raise.code f.code false 0 0
  | .clear f => enc Op.clear.code f.code false 0 0
  | .toggle f => enc Op.toggle.code f.code false 0 0
  | .check f => enc Op.check.code f.code false 0 0
  | .resetAll => enc Op.resetAll.code 0 false 0 0
  | .inc8 rd => enc Op.inc8.code rd.code false 0 0
  | .dec8 rd => enc Op.dec8.code rd.code false 0 0
  | .add8Reg rd rs => enc Op.add8.code rd.code false rs.code 0
  | .add8Imm rd v => enc Op.add8.code rd.code true 0 (v.setWidth 16)
  | .adc8Reg rd rs => enc Op.adc8.code rd.code false rs.code 0
  | .adc8Imm rd v => enc Op.adc8.code rd.code true 0 (v.setWidth 16)
  | .sub8Reg rd rs => enc Op.sub8.code rd.code false rs.code 0
  | .sub8Imm rd v => enc Op.sub8.code rd.code true 0 (v.setWidth 16)
  | .sbc8Reg rd rs => enc Op.sbc8.code rd.code false rs.code 0
  | .sbc8Imm rd v => enc Op.sbc8.code rd.code true 0 (v.setWidth 16)
  | .inc16 rd => enc Op.inc16.code rd.code false 0 0
  | .dec16 rd => enc Op.dec16.code rd.code false 0 0
  | .add16Reg rd rs => enc Op.add16.code rd.code false rs.code 0
  | .add16Imm rd v => enc Op.add16.code rd.code true 0 v
  | .rd8 rd => enc Op.rd8.code rd.code false 0 0
  | .wr8 rd v => enc Op.wr8.code rd.code true 0 (v.setWidth 16)
  | .rd16 rd => enc Op.rd16.code rd.code false 0 0
  | .wr16 rd v => enc Op.wr16.code rd.code true 0 v
  | .rdf => enc Op.rdf.code 0 false 0 0
  | .wrf v => enc Op.wrf.code 0 true 0 (v.setWidth 16)

end Sys2Proof
end

