-- ==== Sys2Proof/Machine/Flags.lean ====
section
/-! DEFINITION. The bit primitives (40_flag_register.md R100 to R104), the flag binding and the flags byte
(10_state.md R26, R27), and every carry, borrow and half-carry test (41_half_carry_detector.md). All arithmetic
of the tests is exact, on natural numbers (00_scope.md R10). -/

namespace Sys2Proof.Machine

/-! ### Bit primitives -/

/-- R100: bit p forced to 1. -/
def setBit (s : Byte) (p : Nat) : Byte := s ||| (1#8 <<< p)

/-- R101: bit p forced to 0. -/
def clearBit (s : Byte) (p : Nat) : Byte := s &&& (0xFF#8 ^^^ (1#8 <<< p))

/-- R102: bit p inverted. -/
def toggleBit (s : Byte) (p : Nat) : Byte := s ^^^ (1#8 <<< p)

/-- R103: the truth value `s[p] == 1`. -/
def isBitSet (s : Byte) (p : Nat) : Bool := s.getLsbD p

/-- R104: the number `s[p]`, that is `b2i(isBitSet(s, p))`. -/
def getBitValue (s : Byte) (p : Nat) : Nat := (isBitSet s p).toNat

/-- The assignment `F.f <- b` on a byte (00_scope.md R11): one bit written, the other seven left. -/
def assignBit (s : Byte) (p : Nat) (b : Bool) : Byte := if b then setBit s p else clearBit s p

/-! ### The flag binding and the flags byte -/

/-- `pos(f) = FLAG_POS(f)` (00_scope.md R11), under the binding the block has. -/
def pos (b : Config.FlagPos) : Flag → Nat
  | .zero => b.zero
  | .subtract => b.subtract
  | .halfCarry => b.halfCarry
  | .carry => b.carry

/-- One bit of a byte by itself: `v << p`. -/
def bitAt (p : Nat) (v : Bool) : Byte := (BitVec.ofBool v).setWidth 8 <<< p

/-- `flags(z, n, h, c)` (42_alu8.md R150): the four flag bits with the given values, each at its position, and a
zero low nibble. -/
def flags (b : Config.FlagPos) (z n h c : Bool) : Byte :=
  bitAt b.zero z ||| bitAt b.subtract n ||| bitAt b.halfCarry h ||| bitAt b.carry c

/-! ### The detector -/

/-- The low nibble `v[3:0]` (00_scope.md R9). -/
def lowNibble (v : Byte) : Nat := v.toNat % 16

/-- The low 12 bits `w[11:0]` (00_scope.md R9). -/
def low12 (w : Word) : Nat := w.toNat % 4096

/-- `hc_add`: nibble carry on addition (R131). -/
def hcAdd (a b : Byte) (cin : Bool) : Bool := decide (lowNibble a + lowNibble b + cin.toNat > 0xF)

/-- `hb_sub`: nibble borrow on subtraction; `b[3:0] + cin` is not reduced to four bits (R132, 90_conflicts.md
C4). -/
def hbSub (a b : Byte) (cin : Bool) : Bool := decide (lowNibble a < lowNibble b + cin.toNat)

/-- `hc_inc`: nibble roll-over, on the incremented byte (R133). -/
def hcInc (new : Byte) : Bool := decide (lowNibble new = 0x0)

/-- `hb_dec`: nibble roll-under, on the decremented byte (R134). -/
def hbDec (new : Byte) : Bool := decide (lowNibble new = 0xF)

/-- `hc_add16`: carry out of bit 11 (R135). -/
def hcAdd16 (x y : Word) : Bool := decide (low12 x + low12 y > 0xFFF)

/-- `cy_add8`: carry out of bit 7 (R136). -/
def cyAdd8 (a b : Byte) (cin : Bool) : Bool := decide (a.toNat + b.toNat + cin.toNat > 0xFF)

/-- `bw_sub8`: borrow into bit 7; `b + cin` is not reduced to eight bits (R136). -/
def bwSub8 (a b : Byte) (cin : Bool) : Bool := decide (a.toNat < b.toNat + cin.toNat)

/-- `cy_add16`: carry out of bit 15 (R136). -/
def cyAdd16 (x y : Word) : Bool := decide (x.toNat + y.toNat > 0xFFFF)

end Sys2Proof.Machine
end

