-- ==== Sys2Proof/Machine/State.lean ====
section
/-! DEFINITION. The state of one context as plain data (10_state.md R21), the reasons a step could stop, and
the state right after reset (R36). -/

namespace Sys2Proof.Machine

/-- The 8-bit register file `REG8[0..6]` (10_state.md R22): seven separate holders. -/
structure Regs8 where
  a : Byte
  b : Byte
  c : Byte
  d : Byte
  e : Byte
  h : Byte
  l : Byte
  deriving DecidableEq, Repr

/-- The 16-bit register file `REG16[0..4]` (10_state.md R23): five separate holders, none of which shares
storage with an 8-bit holder (R24). -/
structure Regs16 where
  bc : Word
  de : Word
  hl : Word
  sp : Word
  pc : Word
  deriving DecidableEq, Repr

/-- What the dispatcher puts on the input ports for one step (10_state.md R33). -/
structure PortSample where
  /-- `rst`, the reset request. -/
  rst      : Bool
  /-- `cmd_valid`: a command is presented on `cmd`. -/
  cmdValid : Bool
  /-- `cmd`, the command word. -/
  cmd      : CmdWord
  deriving DecidableEq, Repr

/-- The state of one context. The first five fields are exactly the state of 10_state.md R21; the last four
are the model's own (log 2, 3, 4, 5). -/
structure State where
  /-- `REG8[0..6]` (R22). -/
  reg8       : Regs8
  /-- `REG16[0..4]` (R23). -/
  reg16      : Regs16
  /-- The four storage bits F[7:4] (R28). F[3:0] is tied to zero and has no storage. -/
  fhi        : BitVec 4
  /-- The latch `FAULT` (R31). -/
  fault      : Bool
  /-- The latch `FCAUSE` (R31). -/
  fcause     : BitVec 2
  /-- MODEL'S OWN: what the last step drove on `q`; `none` is `q_valid` = 0 (R32). DESIGN CHOICE, log 4. -/
  q          : Option Word
  /-- MODEL'S OWN: the port samples the dispatcher has still to present, the next one first (R20). DESIGN
  CHOICE, log 5. -/
  inputs     : List PortSample
  /-- MODEL'S OWN: the counter the free reset values are applied to (R250). DESIGN CHOICE, log 2. -/
  resetCount : Nat
  /-- MODEL'S OWN: the parameter `FLAG_POS` of this instance of the block (00_scope.md R8). It is configuration
  (R34): commands read it and no step writes it. DESIGN CHOICE, log 3. -/
  flagPos    : Config.FlagPos
  deriving DecidableEq, Repr

/-- Reasons to stop with a fault: none. The one exception of the block, `Fault(cause)`, is taken as a next
state (60_exceptions.md R222, R223; log 6), no value of an operand ever faults (R220), and the spec describes
every other event, so this closed type has no constructor. -/
inductive Fault where
  deriving DecidableEq, Repr

/-- Reasons to refuse. -/
inductive Refusal where
  /-- An instruction with no meaning in the model. Raised by an arm of `exec` only; every instruction of this
  model has its meaning, so nothing raises it. Safe: it proves nothing. -/
  | notModelled (mnemonic : String)
  deriving DecidableEq, Repr

/-- The outcome of a meaning or a step. -/
abbrev Result := Host.Outcome State Fault Refusal

/-- The state right after the reset that `n` resets came before, of a block whose flag binding is `b`
(10_state.md R36): FAULT, FCAUSE and F[3:0] are 0, and every holder and F[7:4] has the value of its open parameter,
of which nothing is known. DESIGN CHOICE, log 1 and 2. -/
def State.afterReset (b : Config.FlagPos) (n : Nat) : State where
  reg8 :=
    { a := Config.resetReg8 n 0, b := Config.resetReg8 n 1, c := Config.resetReg8 n 2
      d := Config.resetReg8 n 3, e := Config.resetReg8 n 4, h := Config.resetReg8 n 5
      l := Config.resetReg8 n 6 }
  reg16 :=
    { bc := Config.resetReg16 n 0, de := Config.resetReg16 n 1, hl := Config.resetReg16 n 2
      sp := Config.resetReg16 n 3, pc := Config.resetReg16 n 4 }
  fhi := Config.resetFhi n
  fault := false
  fcause := 0
  q := none
  inputs := []
  resetCount := n
  flagPos := b

/-- The state right after (power-on) reset, of the block with the spec's default binding (log 3). -/
def State.reset : State := State.afterReset Config.defaultFlagPos 0

end Sys2Proof.Machine
end

