-- ==== Sys2Proof/Machine/Ops.lean ====
section
/-! DEFINITION. The named operations over the state: register and flag access, the ends of a command, taking
the one exception and, beside it, its only way out, reset. -/

namespace Sys2Proof.Machine

/-! ### Truncation (00_scope.md R10) -/

/-- `trunc_8(v)`: `v mod 2^8`, in range also for negative v. -/
def trunc8 (v : Int) : Byte := BitVec.ofInt 8 v

/-- `trunc_16(v)`. -/
def trunc16 (v : Int) : Word := BitVec.ofInt 16 v

/-! ### Registers (00_scope.md R11) -/

/-- `REG8[r]`. -/
def readReg8 (r : Reg8) (s : State) : Byte :=
  match r with
  | .a => s.reg8.a
  | .b => s.reg8.b
  | .c => s.reg8.c
  | .d => s.reg8.d
  | .e => s.reg8.e
  | .h => s.reg8.h
  | .l => s.reg8.l

/-- `REG8[r] <- v`. -/
def writeReg8 (r : Reg8) (v : Byte) (s : State) : State :=
  match r with
  | .a => { s with reg8 := { s.reg8 with a := v } }
  | .b => { s with reg8 := { s.reg8 with b := v } }
  | .c => { s with reg8 := { s.reg8 with c := v } }
  | .d => { s with reg8 := { s.reg8 with d := v } }
  | .e => { s with reg8 := { s.reg8 with e := v } }
  | .h => { s with reg8 := { s.reg8 with h := v } }
  | .l => { s with reg8 := { s.reg8 with l := v } }

/-- `REG16[r]`. -/
def readReg16 (r : Reg16) (s : State) : Word :=
  match r with
  | .bc => s.reg16.bc
  | .de => s.reg16.de
  | .hl => s.reg16.hl
  | .sp => s.reg16.sp
  | .pc => s.reg16.pc

/-- `REG16[r] <- v`. -/
def writeReg16 (r : Reg16) (v : Word) (s : State) : State :=
  match r with
  | .bc => { s with reg16 := { s.reg16 with bc := v } }
  | .de => { s with reg16 := { s.reg16 with de := v } }
  | .hl => { s with reg16 := { s.reg16 with hl := v } }
  | .sp => { s with reg16 := { s.reg16 with sp := v } }
  | .pc => { s with reg16 := { s.reg16 with pc := v } }

/-! ### The flags byte (10_state.md R26, R28) -/

/-- `F` as a byte: the four storage bits above four bits tied to zero (R28). -/
def readF (s : State) : Byte := s.fhi ++ 0#4

/-- `F <- v`: the four storage bits take v[7:4]; v[3:0] has no storage and is discarded (R28). -/
def writeF (v : Byte) (s : State) : State := { s with fhi := v.extractLsb' 4 4 }

/-- `flag(f) = F[pos(f)]` (00_scope.md R11). -/
def flag (f : Flag) (s : State) : Bool := isBitSet (readF s) (pos s.flagPos f)

/-- `F.f <- b` (00_scope.md R11). -/
def writeFlag (f : Flag) (b : Bool) (s : State) : State :=
  writeF (assignBit (readF s) (pos s.flagPos f) b) s

/-! ### The ends of a command (10_state.md R32) -/

/-- What the step puts on the output `q`; `none` is `q_valid` = 0. -/
def driveQ (q : Option Word) (s : State) : State := { s with q := q }

/-- The command completes and assigns no q: `q_valid` is 0. -/
def finish (s : State) : Result := .next (driveQ none s)

/-- The command completes and drives `q <- v`: `q_valid` is 1. -/
def finishWith (v : Word) (s : State) : Result := .next (driveQ (some v) s)

/-! ### The exception, and reset, its only way out -/

/-- The code of a cause (60_exceptions.md R221). -/
def causeCode : FaultCause → BitVec 2
  | .illegalOp => 1
  | .illegalForm => 2
  | .illegalSelector => 3

/-- `FAULT <- 1`, `FCAUSE <- cause`. -/
def latchFault (c : FaultCause) (s : State) : State := { s with fault := true, fcause := causeCode c }

/-- Taking the exception, `raise Fault(cause)` (60_exceptions.md R222): `FAULT <- 1`, `FCAUSE <- cause`, nothing
else, and `q_valid` is 0. There is no handler, vector, saved register or mode (R226). -/
def raiseFault (c : FaultCause) (s : State) : Result :=
  finish (latchFault c s)

/-- There is no return from the exception (60_exceptions.md R227); reset is the only way out of it. `rst`
(70_reset_and_hazards.md R250): FAULT, FCAUSE and F[3:0] become 0 and every holder and F[7:4] takes a reset
value of which nothing is known, a fresh one at each reset (log 2). The flag binding is no state and stays
(10_state.md R26). -/
def resetBlock (s : State) : State :=
  { State.afterReset s.flagPos (s.resetCount + 1) with inputs := s.inputs }

/-! ### Output ports (10_state.md R33) -/

/-- `q_valid`. -/
def qValid (s : State) : Bool := s.q.isSome

/-- `fault`, the FAULT latch. -/
def faultPort (s : State) : Bool := s.fault

/-- `fcause`, meaningful only while `fault` is 1: no value otherwise (93_implementation_defined.md U10). -/
def fcausePort (s : State) : Option (BitVec 2) := if s.fault then some s.fcause else none

end Sys2Proof.Machine
end

