-- ==== Sys2Proof/Machine/Operands.lean ====
section
/-! DEFINITION. Operand fetch: the second operand is a holder or an immediate (30_encoding.md R74, R75;
42_alu8.md R150; 43_alu16.md R180), and the carry-in is the Carry flag before the command (R150). -/

namespace Sys2Proof.Machine

/-- The second operand of an 8-bit command: `REG8[rs]` or `imm8`, used as is. -/
def operand8 (src : Src8) (s : State) : Byte :=
  match src with
  | .reg rs => readReg8 rs s
  | .imm v => v

/-- The second operand of ADD16: `REG16[rs]` or `imm16`, used as is. -/
def operand16 (src : Src16) (s : State) : Word :=
  match src with
  | .reg rs => readReg16 rs s
  | .imm v => v

/-- `cin = flag(Carry)`. -/
def carryIn (s : State) : Bool := flag .carry s

end Sys2Proof.Machine
end

