-- ==== Sys2Proof/Machine/Access.lean ====
section
/-! DEFINITION. Register and flags access (44_access.md R200 to R206). -/

namespace Sys2Proof.Machine

/-- RD8 r (R200): `q <- zext_16(REG8[rd])`. -/
def execRd8 (rd : Reg8) (s : State) : Result := finishWith ((readReg8 rd s).setWidth 16) s

/-- WR8 r, #imm8 (R201): `REG8[rd] <- imm8`. -/
def execWr8 (rd : Reg8) (v : Byte) (s : State) : Result := finish (writeReg8 rd v s)

/-- RD16 rr (R202): `q <- REG16[rd]`. -/
def execRd16 (rd : Reg16) (s : State) : Result := finishWith (readReg16 rd s) s

/-- WR16 rr, #imm16 (R203): `REG16[rd] <- imm16`. -/
def execWr16 (rd : Reg16) (v : Word) (s : State) : Result := finish (writeReg16 rd v s)

/-- RDF (R204): `q <- zext_16(F)`. -/
def execRdf (s : State) : Result := finishWith ((readF s).setWidth 16) s

/-- WRF #imm8 (R205): `F <- imm8 & 0xF0`. -/
def execWrf (v : Byte) (s : State) : Result := finish (writeF (v &&& 0xF0) s)

end Sys2Proof.Machine
end

