-- ==== Sys2Proof/Machine/Alu16.lean ====
section
/-! DEFINITION. The 16-bit address adder (43_alu16.md R180 to R186). -/

namespace Sys2Proof.Machine

/-- INC16 rr (R181): no flag is touched. -/
def execInc16 (rd : Reg16) (s : State) : Result :=
  finish (writeReg16 rd (trunc16 (((readReg16 rd s).toNat : Int) + 1)) s)

/-- DEC16 rr (R182): no flag is touched. -/
def execDec16 (rd : Reg16) (s : State) : Result :=
  finish (writeReg16 rd (trunc16 (((readReg16 rd s).toNat : Int) - 1)) s)

/-- ADD16 (R183) on two fetched operands: Subtract, HalfCarry and Carry are written as single bits and Zero is
not written. -/
def add16 (rd : Reg16) (x y : Word) (s : State) : Result :=
  let s1 := writeReg16 rd (trunc16 ((x.toNat : Int) + y.toNat)) s
  let s2 := writeFlag .subtract false s1
  let s3 := writeFlag .halfCarry (hcAdd16 x y) s2
  finish (writeFlag .carry (cyAdd16 x y) s3)

/-- ADD16 rrd, rrs (R183, m = 0). -/
def execAdd16Reg (rd rs : Reg16) (s : State) : Result :=
  add16 rd (readReg16 rd s) (operand16 (.reg rs) s) s

/-- ADD16 rrd, #imm16 (R183, m = 1). -/
def execAdd16Imm (rd : Reg16) (v : Word) (s : State) : Result :=
  add16 rd (readReg16 rd s) (operand16 (.imm v) s) s

end Sys2Proof.Machine
end

