-- ==== Sys2Proof/Machine/Alu8.lean ====
section
/-! DEFINITION. The 8-bit ALU (42_alu8.md R150 to R161). Each operation is a pure function of its operands and
the Carry flag to a value and four flags, computed exactly and truncated at the end; `finishAlu8` writes value
and flags together (R150). -/

namespace Sys2Proof.Machine

/-- What an 8-bit operation gives: the stored value and the four flags. -/
structure Alu8Out where
  value : Byte
  z : Bool
  n : Bool
  h : Bool
  c : Bool
  deriving DecidableEq, Repr

/-- increment8 (R151); Carry is kept. -/
def increment8 (a : Byte) (carry : Bool) : Alu8Out :=
  let new := trunc8 ((a.toNat : Int) + 1)
  { value := new, z := decide (new = 0), n := false, h := hcInc new, c := carry }

/-- decrement8 (R152); Carry is kept. -/
def decrement8 (a : Byte) (carry : Bool) : Alu8Out :=
  let new := trunc8 ((a.toNat : Int) - 1)
  { value := new, z := decide (new = 0), n := true, h := hbDec new, c := carry }

/-- add8 (R153). -/
def add8 (a b : Byte) : Alu8Out :=
  let sum := trunc8 ((a.toNat : Int) + b.toNat)
  { value := sum, z := decide (sum = 0), n := false, h := hcAdd a b false, c := cyAdd8 a b false }

/-- adc8 (R154). -/
def adc8 (a b : Byte) (cin : Bool) : Alu8Out :=
  let sum := trunc8 ((a.toNat : Int) + b.toNat + cin.toNat)
  { value := sum, z := decide (sum = 0), n := false, h := hcAdd a b cin, c := cyAdd8 a b cin }

/-- sub8 (R155): Zero compares the operands, not the stored byte (90_conflicts.md C1). -/
def sub8 (a b : Byte) : Alu8Out :=
  { value := trunc8 ((a.toNat : Int) - b.toNat)
    z := decide (a.toNat = b.toNat), n := true, h := hbSub a b false, c := bwSub8 a b false }

/-- sbc8 (R156): `b + cin` is the exact integer 0..256 in all three tests (R160, 90_conflicts.md C1). -/
def sbc8 (a b : Byte) (cin : Bool) : Alu8Out :=
  { value := trunc8 ((a.toNat : Int) - b.toNat - cin.toNat)
    z := decide (a.toNat = b.toNat + cin.toNat), n := true, h := hbSub a b cin, c := bwSub8 a b cin }

/-- The value write and the flag write of an 8-bit operation, together (R150). -/
def finishAlu8 (rd : Reg8) (out : Alu8Out) (s : State) : Result :=
  finish (writeF (flags s.flagPos out.z out.n out.h out.c) (writeReg8 rd out.value s))

/-- INC8 r (R151). -/
def execInc8 (rd : Reg8) (s : State) : Result :=
  finishAlu8 rd (increment8 (readReg8 rd s) (flag .carry s)) s

/-- DEC8 r (R152). -/
def execDec8 (rd : Reg8) (s : State) : Result :=
  finishAlu8 rd (decrement8 (readReg8 rd s) (flag .carry s)) s

/-- ADD8 rd, rs (R153, m = 0). -/
def execAdd8Reg (rd rs : Reg8) (s : State) : Result :=
  finishAlu8 rd (add8 (readReg8 rd s) (operand8 (.reg rs) s)) s

/-- ADD8 rd, #imm8 (R153, m = 1). -/
def execAdd8Imm (rd : Reg8) (v : Byte) (s : State) : Result :=
  finishAlu8 rd (add8 (readReg8 rd s) (operand8 (.imm v) s)) s

/-- ADC8 rd, rs (R154, m = 0). -/
def execAdc8Reg (rd rs : Reg8) (s : State) : Result :=
  finishAlu8 rd (adc8 (readReg8 rd s) (operand8 (.reg rs) s) (carryIn s)) s

/-- ADC8 rd, #imm8 (R154, m = 1). -/
def execAdc8Imm (rd : Reg8) (v : Byte) (s : State) : Result :=
  finishAlu8 rd (adc8 (readReg8 rd s) (operand8 (.imm v) s) (carryIn s)) s

/-- SUB8 rd, rs (R155, m = 0). -/
def execSub8Reg (rd rs : Reg8) (s : State) : Result :=
  finishAlu8 rd (sub8 (readReg8 rd s) (operand8 (.reg rs) s)) s

/-- SUB8 rd, #imm8 (R155, m = 1). -/
def execSub8Imm (rd : Reg8) (v : Byte) (s : State) : Result :=
  finishAlu8 rd (sub8 (readReg8 rd s) (operand8 (.imm v) s)) s

/-- SBC8 rd, rs (R156, m = 0). -/
def execSbc8Reg (rd rs : Reg8) (s : State) : Result :=
  finishAlu8 rd (sbc8 (readReg8 rd s) (operand8 (.reg rs) s) (carryIn s)) s

/-- SBC8 rd, #imm8 (R156, m = 1). -/
def execSbc8Imm (rd : Reg8) (v : Byte) (s : State) : Result :=
  finishAlu8 rd (sbc8 (readReg8 rd s) (operand8 (.imm v) s) (carryIn s)) s

end Sys2Proof.Machine
end

