-- ==== Sys2Proof/Machine/FlagRegister.lean ====
section
/-! DEFINITION. The flag commands (40_flag_register.md R106 to R110). -/

namespace Sys2Proof.Machine

/-- RAISE f (R106): `F <- setBit(F, pos(f))`. -/
def execRaise (f : Flag) (s : State) : Result := finish (writeF (setBit (readF s) (pos s.flagPos f)) s)

/-- CLEAR f (R107): `F <- clearBit(F, pos(f))`. -/
def execClear (f : Flag) (s : State) : Result := finish (writeF (clearBit (readF s) (pos s.flagPos f)) s)

/-- TOGGLE f (R108): `F <- toggleBit(F, pos(f))`. -/
def execToggle (f : Flag) (s : State) : Result := finish (writeF (toggleBit (readF s) (pos s.flagPos f)) s)

/-- CHECK f (R109): `q <- zext_16(flag(f))`. -/
def execCheck (f : Flag) (s : State) : Result :=
  finishWith ((BitVec.ofBool (flag f s)).setWidth 16) s

/-- RESETALL (R110, the corrected contract of 90_conflicts.md C5): `F <- 0x00`. -/
def execResetAll (s : State) : Result := finish (writeF 0x00 s)

end Sys2Proof.Machine
end

