-- ==== Sys2Proof/Machine/Dispatch.lean ====
section
/-! DEFINITION. One arm per command: the rule named for it in 30_encoding.md R73. -/

namespace Sys2Proof.Machine

def exec (i : Instr) (s : State) : Host.Outcome State Fault Refusal :=
  match i with
  | .raise f => Sys2Proof.Machine.execRaise f s
  | .clear f => Sys2Proof.Machine.execClear f s
  | .toggle f => Sys2Proof.Machine.execToggle f s
  | .check f => Sys2Proof.Machine.execCheck f s
  | .resetAll => Sys2Proof.Machine.execResetAll s
  | .inc8 rd => Sys2Proof.Machine.execInc8 rd s
  | .dec8 rd => Sys2Proof.Machine.execDec8 rd s
  | .add8Reg rd rs => Sys2Proof.Machine.execAdd8Reg rd rs s
  | .add8Imm rd v => Sys2Proof.Machine.execAdd8Imm rd v s
  | .adc8Reg rd rs => Sys2Proof.Machine.execAdc8Reg rd rs s
  | .adc8Imm rd v => Sys2Proof.Machine.execAdc8Imm rd v s
  | .sub8Reg rd rs => Sys2Proof.Machine.execSub8Reg rd rs s
  | .sub8Imm rd v => Sys2Proof.Machine.execSub8Imm rd v s
  | .sbc8Reg rd rs => Sys2Proof.Machine.execSbc8Reg rd rs s
  | .sbc8Imm rd v => Sys2Proof.Machine.execSbc8Imm rd v s
  | .inc16 rd => Sys2Proof.Machine.execInc16 rd s
  | .dec16 rd => Sys2Proof.Machine.execDec16 rd s
  | .add16Reg rd rs => Sys2Proof.Machine.execAdd16Reg rd rs s
  | .add16Imm rd v => Sys2Proof.Machine.execAdd16Imm rd v s
  | .rd8 rd => Sys2Proof.Machine.execRd8 rd s
  | .wr8 rd v => Sys2Proof.Machine.execWr8 rd v s
  | .rd16 rd => Sys2Proof.Machine.execRd16 rd s
  | .wr16 rd v => Sys2Proof.Machine.execWr16 rd v s
  | .rdf => Sys2Proof.Machine.execRdf s
  | .wrf v => Sys2Proof.Machine.execWrf v s

end Sys2Proof.Machine
end

