-- ==== Sys2Proof/Machine/Fetch.lean ====
section
/-! DEFINITION. How the block takes a port sample (10_state.md R20, R33), and what it does with one:
reset wins, a faulted block does nothing, and otherwise a presented command is decoded and run. -/

namespace Sys2Proof.Machine

/-- A sample in which nothing is asked of the block. -/
def idleSample : PortSample := { rst := false, cmdValid := false, cmd := 0 }

/-- A sample that presents a command. -/
def present (w : CmdWord) : PortSample := { rst := false, cmdValid := true, cmd := w }

/-- A sample that asserts `rst` alone. -/
def assertReset : PortSample := { rst := true, cmdValid := false, cmd := 0 }

/-- The sample the next step sees; idle once the dispatcher presents nothing further (60_exceptions.md R234,
log 5). -/
def nextSample (s : State) : PortSample :=
  match s.inputs with
  | [] => idleSample
  | p :: _ => p

/-- The state with the next sample taken off. -/
def takeSample (s : State) : State := { s with inputs := s.inputs.tail }

/-- A presented command (30_encoding.md R78): the decoder raises the fault it names, or the command runs. -/
def runCommand (w : CmdWord) (s : State) : Result :=
  match decode w with
  | .ok i => exec i s
  | .error c => raiseFault c s

/-- What the block does with one sample. `rst` wins over a command (70_reset_and_hazards.md R250). While FAULT
is 1 no command is decoded and nothing changes (60_exceptions.md R223, R227). With no command nothing changes
and q carries nothing (10_state.md R32). -/
def onSample (p : PortSample) (s : State) : Result :=
  if p.rst then .next (resetBlock s)
  else if p.cmdValid && !s.fault then runCommand p.cmd s
  else finish s

end Sys2Proof.Machine
end

