-- ==== Sys2Proof/Machine/Step.lean ====
section
/-! DEFINITION. One step of the block: it takes the next port sample and acts on it (Machine/Fetch.lean). -/

namespace Sys2Proof.Machine

/-- One atomic step (10_state.md R20). -/
def step (s : State) : Host.Outcome State Fault Refusal := onSample (nextSample s) (takeSample s)

/-- The word presented as the very next command. The block fetches nothing (10_state.md R25): its "next
instruction" is the head of the dispatcher's samples. FAULT stays as it is, so a faulted block stays stuck (log
7). -/
def State.withFetchWord (s : State) (nbits w : Nat) : State :=
  { s with inputs := present (BitVec.ofNat 32 (w % 2 ^ nbits)) :: s.inputs }

end Sys2Proof.Machine
end

