-- ==== Sys2Proof/Safety.lean ====
section
/-! DEFINITION. The premises a claim may take by name (70_reset_and_hazards.md R253), what counts as a normal
end (60_exceptions.md R234), the invariant of the fault latch, and the frames that claims are written with. -/

namespace Sys2Proof.Machine

/-! ### Premises and ends -/

/-- `NoFault` (R253): FAULT = 0. -/
abbrev NoFault (s : State) : Prop := s.fault = false

/-- `LowNibbleZero` (R253): F[3:0] reads 0. -/
abbrev LowNibbleZero (s : State) : Prop := (readF s).extractLsb' 0 4 = 0

/-- A sample that presents no contract violation: it resets, presents nothing, or presents a legal word (the
declarative check of Sys2Proof/WellFormed.lean, not the decoder). -/
def PortSample.legal (p : PortSample) : Bool := p.rst || !p.cmdValid || wellFormedWord p.cmd

/-- `LegalProgram` (R253): no command still to come is a contract violation. -/
abbrev LegalProgram (s : State) : Prop := s.inputs.all PortSample.legal = true

/-- A normal end of a run: the dispatcher presents nothing further and FAULT is 0 (R234). -/
abbrev NormalEnd (s : State) : Prop := s.inputs = [] ∧ s.fault = false

/-- The fault latch and the outputs agree (10_state.md R31, R32, R36; 60_exceptions.md R221 to R223): FCAUSE is
0 exactly while FAULT is 0, and a faulted block has no result on q. -/
abbrev LatchConsistent (s : State) : Prop :=
  (s.fcause = 0 ↔ s.fault = false) ∧ (s.fault = true → s.q = none)

/-! ### Frames: what stays as it was -/

/-- Every 8-bit holder. -/
abbrev SameReg8 (s t : State) : Prop := ∀ r, readReg8 r t = readReg8 r s

/-- Every 8-bit holder but one. -/
abbrev SameReg8But (rd : Reg8) (s t : State) : Prop := ∀ r, r ≠ rd → readReg8 r t = readReg8 r s

/-- Every 16-bit holder. -/
abbrev SameReg16 (s t : State) : Prop := ∀ r, readReg16 r t = readReg16 r s

/-- Every 16-bit holder but one. -/
abbrev SameReg16But (rd : Reg16) (s t : State) : Prop := ∀ r, r ≠ rd → readReg16 r t = readReg16 r s

/-- Every flag but one. -/
abbrev SameFlagsBut (f : Flag) (s t : State) : Prop := ∀ g, g ≠ f → flag g t = flag g s

/-- The fault latch, the samples to come, the reset counter and the flag binding. -/
abbrev SameControl (s t : State) : Prop :=
  t.fault = s.fault ∧ t.fcause = s.fcause ∧ t.inputs = s.inputs ∧ t.resetCount = s.resetCount ∧
    t.flagPos = s.flagPos

/-- All state of 10_state.md R21: the two register files, F and the fault latch. -/
abbrev SameBlock (s t : State) : Prop :=
  SameReg8 s t ∧ SameReg16 s t ∧ readF t = readF s ∧ t.fault = s.fault ∧ t.fcause = s.fcause

end Sys2Proof.Machine
end

