-- ==== Sys2Proof/Certificates/Slice0/Obligations.lean ====
section
/-! DEFINITION. The statements for the provers, and the words they are written with (`Sys2Proof.Claim`). A
statement about a command whose basis is 'stated' says the whole of its rule: the words that encode it, the words
that fault, its effect and its frame. -/

namespace Sys2Proof.Claim
open Sys2Proof.Machine

/-! ### Words -/

/-- `cmd[31:27]`. -/
abbrev opBits (w : CmdWord) : BitVec 5 := w.extractLsb' 27 5

/-- `cmd[23]`. -/
abbrev mBit (w : CmdWord) : Bool := w.getLsbD 23

/-- `cmd[26:24]` as a number. -/
abbrev rdBits (w : CmdWord) : Nat := (w.extractLsb' 24 3).toNat

/-- `cmd[22:20]` as a number. -/
abbrev rsBits (w : CmdWord) : Nat := (w.extractLsb' 20 3).toNat

/-- A selector or flag id placed in the `rd` field. -/
abbrev inRd (c : BitVec 3) : CmdWord := c.setWidth 32 <<< 24

/-- A selector placed in the `rs` field. -/
abbrev inRs (c : BitVec 3) : CmdWord := c.setWidth 32 <<< 20

/-- The op has no form with this m: every such word is IllegalForm. -/
abbrev NoForm (op : BitVec 5) (m : Bool) : Prop :=
  ∀ w : CmdWord, opBits w = op → mBit w = m → decode w = .error .illegalForm

/-- The words of one form that fault: a must-be-zero bit gives IllegalForm, and with none of them a bad selector
gives IllegalSelector. -/
abbrev FormFaults (op : BitVec 5) (m : Bool) (mbz : CmdWord) (badSelector : CmdWord → Prop) : Prop :=
  ∀ w : CmdWord, opBits w = op → mBit w = m →
    (w &&& mbz ≠ 0 → decode w = .error .illegalForm) ∧
    (w &&& mbz = 0 → badSelector w → decode w = .error .illegalSelector)

/-! ### Operand forms -/

/-- The command is one of the two forms of an 8-bit operation with destination `rd`, and `v` is the value of its
second operand in the state `s` (30_encoding.md R74). -/
abbrev Form8 (reg : Reg8 → Reg8 → Instr) (imm : Reg8 → Byte → Instr) (i : Instr) (rd : Reg8) (v : Byte)
    (s : State) : Prop :=
  (∃ rs, i = reg rd rs ∧ v = readReg8 rs s) ∨ i = imm rd v

/-- The same for ADD16. -/
abbrev Form16 (i : Instr) (rd : Reg16) (v : Word) (s : State) : Prop :=
  (∃ rs, i = .add16Reg rd rs ∧ v = readReg16 rs s) ∨ i = .add16Imm rd v

/-! ### Effects -/

/-- Only F (and q, which carries nothing) may differ. -/
abbrev OnlyF (s t : State) : Prop := SameReg8 s t ∧ SameReg16 s t ∧ SameControl s t ∧ t.q = none

/-- The effect of an 8-bit ALU command: the value of the destination, the four flags over a zero low nibble
(42_alu8.md R150), and nothing else. -/
abbrev Alu8Effect (rd : Reg8) (s t : State) (value : Nat) (z n h c : Bool) : Prop :=
  (readReg8 rd t).toNat = value ∧
  flag .zero t = z ∧ flag .subtract t = n ∧ flag .halfCarry t = h ∧ flag .carry t = c ∧
  LowNibbleZero t ∧ SameReg8But rd s t ∧ SameReg16 s t ∧ SameControl s t ∧ t.q = none

/-- The effect of a 16-bit command that touches no flag. -/
abbrev Word16Effect (rd : Reg16) (s t : State) (value : Nat) : Prop :=
  (readReg16 rd t).toNat = value ∧ readF t = readF s ∧
  SameReg16But rd s t ∧ SameReg8 s t ∧ SameControl s t ∧ t.q = none

/-- Two blocks, with whatever flag bindings, agree on every holder, on every flag by its name, on the fault latch
and on the model's own fields but q. -/
abbrev SameByName (s s' : State) : Prop :=
  SameReg8 s s' ∧ SameReg16 s s' ∧ (∀ f, flag f s' = flag f s) ∧ s'.fault = s.fault ∧ s'.fcause = s.fcause ∧
  s'.inputs = s.inputs ∧ s'.resetCount = s.resetCount

/-! ### Tables -/

/-- What a command does to a flag (10_state.md R29). -/
inductive FlagRule where
  | kept
  | inverted
  | written (v : Bool)
  | computed
  deriving DecidableEq, Repr

/-- A row of the table of R29 for the four flags in the order Z, N, H, C. -/
def flagRow (z n h c : FlagRule) : Flag → FlagRule
  | .zero => z
  | .subtract => n
  | .halfCarry => h
  | .carry => c

/-- One flag ruled, the others kept. -/
def onlyFlag (f : Flag) (r : FlagRule) (g : Flag) : FlagRule := if g = f then r else .kept

/-- The table of 10_state.md R29, under a flag binding (WRF names bits of its operand). -/
def flagRule (b : Config.FlagPos) : Instr → Flag → FlagRule
  | .raise f => onlyFlag f (.written true)
  | .clear f => onlyFlag f (.written false)
  | .toggle f => onlyFlag f .inverted
  | .resetAll => fun _ => .written false
  | .inc8 _ => flagRow .computed (.written false) .computed .kept
  | .dec8 _ => flagRow .computed (.written true) .computed .kept
  | .add8Reg _ _ | .add8Imm _ _ | .adc8Reg _ _ | .adc8Imm _ _ =>
    flagRow .computed (.written false) .computed .computed
  | .sub8Reg _ _ | .sub8Imm _ _ | .sbc8Reg _ _ | .sbc8Imm _ _ =>
    flagRow .computed (.written true) .computed .computed
  | .add16Reg _ _ | .add16Imm _ _ => flagRow .kept (.written false) .computed .computed
  | .wrf v => fun f => .written (v.getLsbD (pos b f))
  | .check _ | .inc16 _ | .dec16 _ | .rd8 _ | .wr8 _ _ | .rd16 _ | .wr16 _ _ | .rdf => fun _ => .kept

/-- What a command drives on q (10_state.md R32 and the rules of the four reading commands). -/
def drivenQ (s : State) : Instr → Option Word
  | .check f => some (if flag f s then 1 else 0)
  | .rd8 rd => some (BitVec.ofNat 16 (readReg8 rd s).toNat)
  | .rd16 rd => some (readReg16 rd s)
  | .rdf => some (BitVec.ofNat 16 (readF s).toNat)
  | _ => none

/-- The command names the holder PC (selector 4 of the 16-bit file) as the holder it writes. -/
def writesPc : Instr → Bool
  | .inc16 rd | .dec16 rd | .add16Reg rd _ | .add16Imm rd _ | .wr16 rd _ => rd == .pc
  | _ => false

/-- The command names the holder PC in any of its operands, to write it or only to read it. -/
def namesPc : Instr → Bool
  | .add16Reg rd rs => rd == .pc || rs == .pc
  | .rd16 rd => rd == .pc
  | i => writesPc i

/-- The next step runs the command: it is presented without `rst` to a block that has not faulted. -/
abbrev RunsNext (s : State) (i : Instr) : Prop :=
  (nextSample s).rst = false ∧ (nextSample s).cmdValid = true ∧ s.fault = false ∧
  decode (nextSample s).cmd = .ok i

end Sys2Proof.Claim

open Sys2Proof Sys2Proof.Machine Sys2Proof.Claim

/-! ### Encoding -/

/-- 30_encoding.md R71 to R73, R79: encoding then decoding any command gives it back, every operand at every
value. -/
def Obligations.DecodeOfEncodeIsTheCommand : Prop := ∀ i : Instr, decode (encode i) = .ok i

/-- 30_encoding.md R78: a word that decodes is exactly the word of its command, so no bit of a legal word is
ignored. -/
def Obligations.EncodeOfDecodeIsTheWord : Prop :=
  ∀ (w : CmdWord) (i : Instr), decode w = .ok i → encode i = w

/-- 30_encoding.md R78, R84, 60_exceptions.md R225: the procedural decoder and the declarative checks on the
opcode table agree on every word, cause by cause and in the order of priority; the unassigned op codes are those
R84 lists. -/
def Obligations.DecoderAgreesWithTheOpcodeTable : Prop :=
  ∀ w : CmdWord,
    (decode w = .error .illegalOp ↔ opAssigned w = false) ∧
    (decode w = .error .illegalForm ↔ opAssigned w = true ∧ formCorrect w = false) ∧
    (decode w = .error .illegalSelector ↔
      opAssigned w = true ∧ formCorrect w = true ∧ selectorsNamed w = false) ∧
    ((∃ i, decode w = .ok i) ↔ wellFormedWord w = true) ∧
    (opAssigned w = false ↔
      opBits w ∈ [0x00#5, 0x06#5, 0x07#5, 0x0E#5, 0x0F#5, 0x13#5, 0x14#5, 0x15#5, 0x16#5, 0x17#5, 0x1E#5,
        0x1F#5])

/-- 30_encoding.md R78: no word is an instance of two rows of the opcode table, and a legal word is an instance
of its command's row. -/
def Obligations.NoWordIsAnInstanceOfTwoRows : Prop :=
  (∀ w : CmdWord, (opcodeRows.filter (fun r => r.isInstance w)).length ≤ 1) ∧
  (∀ (w : CmdWord) (i : Instr), decode w = .ok i → i.row ∈ opcodeRows ∧ i.row.isInstance w = true)

/-- 30_encoding.md R79: the encoding function, and the worked encodings, read both ways. -/
def Obligations.WorkedEncodingsDecodeAndEncode : Prop :=
  (∀ (op : BitVec 5) (rd : BitVec 3) (m : Bool) (rs : BitVec 3) (imm : Word),
    enc op rd m rs imm =
      op.setWidth 32 <<< 27 ||| rd.setWidth 32 <<< 24 ||| (BitVec.ofBool m).setWidth 32 <<< 23 |||
        rs.setWidth 32 <<< 20 ||| imm.setWidth 32) ∧
  ∀ p ∈ ([(0x0B000000#32, Instr.raise .carry), (0x20000000#32, .check .zero), (0x28000000#32, .resetAll),
      (0x41000000#32, .inc8 .b), (0x50100000#32, .add8Reg .a .b), (0x508000C6#32, .add8Imm .a 0xC6),
      (0x68600000#32, .sbc8Reg .a .l), (0x83000000#32, .inc16 .sp), (0x92000000#32, .add16Reg .hl .bc),
      (0x92800001#32, .add16Imm .hl 0x0001), (0xC6000000#32, .rd8 .l), (0xC880003A#32, .wr8 .a 0x3A),
      (0xDA800FFF#32, .wr16 .hl 0x0FFF), (0xE0000000#32, .rdf),
      (0xE88000F0#32, .wrf 0xF0)] : List (CmdWord × Instr)),
    decode p.1 = .ok p.2 ∧ encode p.2 = p.1

/-! ### Reset and the step -/

/-- 10_state.md R36: for every flag binding, FAULT, FCAUSE and F[3:0] are 0 after reset, and the holders and F[7:4]
have the values of the open parameters. That the parameters are applied to the number 0, that q and the samples
are empty, and that `State.reset` is the block with the default binding, is the model's choice (log 1 to 5). -/
def Obligations.ResetStateHasTheSpecifiedValues : Prop :=
  State.reset = State.afterReset Config.defaultFlagPos 0 ∧
  ∀ b : Config.FlagPos,
    let s := State.afterReset b 0
    s.fault = false ∧ s.fcause = 0 ∧ LowNibbleZero s ∧
    (∀ r : Reg8, readReg8 r s = Config.resetReg8 0 r.code.toNat) ∧
    (∀ r : Reg16, readReg16 r s = Config.resetReg16 0 r.code.toNat) ∧
    readF s = Config.resetFhi 0 ++ 0#4 ∧
    s.q = none ∧ s.inputs = [] ∧ s.flagPos = b

/-- 10_state.md R31, R36: the invariant of the fault latch holds at reset, of a block with any flag binding. -/
def Obligations.ResetStateIsLatchConsistent : Prop :=
  LatchConsistent State.reset ∧ ∀ (b : Config.FlagPos) (n : Nat), LatchConsistent (State.afterReset b n)

/-- 10_state.md R31, R32, 60_exceptions.md R221 to R223: every step keeps FCAUSE 0 exactly while FAULT is 0, and
leaves no result on q of a faulted block. -/
def Obligations.StepKeepsLatchConsistent : Prop :=
  ∀ s t : State, LatchConsistent s → step s = .next t → LatchConsistent t

/-- 10_state.md R28: F[3:0] reads 0 after reset and after every command, whatever the command. -/
def Obligations.LowNibbleOfFReadsZero : Prop :=
  LowNibbleZero State.reset ∧
  (∀ s t : State, step s = .next t → LowNibbleZero t) ∧
  (∀ (i : Instr) (s t : State), exec i s = .next t → LowNibbleZero t)

/-- 10_state.md R20, 30_encoding.md R78 step 4: while FAULT is 0, a presented word that decodes to a command is
run as that command, on the state with the sample taken off. -/
def Obligations.StepRunsTheDecodedCommand : Prop :=
  ∀ (s : State) (p : PortSample) (rest : List PortSample) (i : Instr),
    s.inputs = p :: rest → p.rst = false → p.cmdValid = true → s.fault = false → decode p.cmd = .ok i →
    step s = exec i { s with inputs := rest }

/-- The model's own `withFetchWord` (log 5, 7; 10_state.md R20, R33): while FAULT is 0 the word is the very next
command run, and the samples behind it are untouched. -/
def Obligations.PresentedTableWordIsRunNext : Prop :=
  ∀ (s : State) (nbits w : Nat) (i : Instr),
    s.fault = false → decodeTableWord nbits w = some i → step (s.withFetchWord nbits w) = exec i s

/-- 10_state.md R32, 60_exceptions.md R234 (log 5): a step with no command and no reset changes no state of the
block and drives no q. -/
def Obligations.IdleStepChangesNothing : Prop :=
  ∀ s : State,
    (s.inputs = [] ∨ ∃ p rest, s.inputs = p :: rest ∧ p.rst = false ∧ p.cmdValid = false) →
    step s = .next { s with inputs := s.inputs.tail, q := none }

/-- 60_exceptions.md R222, with the codes of R221: an illegal word sets FAULT and FCAUSE and nothing else, and
drives no q. -/
def Obligations.IllegalWordOnlySetsTheFaultLatch : Prop :=
  ∀ (s : State) (p : PortSample) (rest : List PortSample) (c : FaultCause),
    s.inputs = p :: rest → p.rst = false → p.cmdValid = true → s.fault = false → decode p.cmd = .error c →
    ∃ t, step s = .next t ∧ t.fault = true ∧
      t.fcause = (match c with
        | .illegalOp => 1
        | .illegalForm => 2
        | .illegalSelector => 3) ∧
      fcausePort t = some t.fcause ∧
      SameReg8 s t ∧ SameReg16 s t ∧ readF t = readF s ∧ qValid t = false ∧
      t.inputs = rest ∧ t.resetCount = s.resetCount ∧ t.flagPos = s.flagPos

/-- 60_exceptions.md R223: a faulted block is stuck for as long as `rst` is not asserted, over any number of
steps and whatever is presented, and reset clears FAULT. -/
def Obligations.FaultedBlockIsStuckUntilReset : Prop :=
  (∀ (k : Nat) (s : State), s.fault = true → (∀ p ∈ s.inputs.take k, p.rst = false) →
    ∃ t, core.run k s = .next t ∧ SameBlock s t ∧ t.inputs = s.inputs.drop k ∧ (0 < k → t.q = none)) ∧
  (∀ (s : State) (p : PortSample) (rest : List PortSample), s.inputs = p :: rest → p.rst = true →
    ∃ t, step s = .next t ∧ t.fault = false ∧ t.fcause = 0)

/-- 70_reset_and_hazards.md R250: `rst` wins over a command in the same sample; FAULT, FCAUSE and F[3:0] become 0;
nothing of the old holders, the old flags or the command reaches the state after it. That two states with one
reset count get the same reset values is the model's choice (log 1, 2), and the flag binding is no state and
stays (R26). -/
def Obligations.ResetWinsAndKeepsNoHolder : Prop :=
  ∀ (s : State) (p : PortSample) (rest : List PortSample), s.inputs = p :: rest → p.rst = true →
    ∃ t, step s = .next t ∧ t.fault = false ∧ t.fcause = 0 ∧ LowNibbleZero t ∧ t.q = none ∧
      t.inputs = rest ∧ t.flagPos = s.flagPos ∧
      ∀ (s' : State) (p' : PortSample), s'.inputs = p' :: rest → p'.rst = true →
        s'.resetCount = s.resetCount → s'.flagPos = s.flagPos → step s' = .next t

/-- 60_exceptions.md R220: every command completes in every state, whatever the values, raises no fault, and
leaves the fault latch and the dispatcher's samples alone. -/
def Obligations.EveryCommandCompletesWithoutFault : Prop :=
  ∀ (i : Instr) (s : State), ∃ t, exec i s = .next t ∧ SameControl s t

/-- 70_reset_and_hazards.md R263: no step stalls, and each takes exactly one sample. -/
def Obligations.EveryStepCompletes : Prop :=
  ∀ s : State, ∃ t, step s = .next t ∧ t.inputs = s.inputs.tail

/-- 60_exceptions.md R220, R221, R234, 70_reset_and_hazards.md R253: from NoFault, a legal program runs any number
of steps with FAULT at 0; legality is the declarative check of the words, not the decoder. -/
def Obligations.LegalProgramNeverFaults : Prop :=
  ∀ (k : Nat) (s : State), NoFault s → LegalProgram s →
    ∃ t, core.run k s = .next t ∧ NoFault t ∧ t.inputs = s.inputs.drop k ∧
      (s.inputs.length ≤ k → NormalEnd t)

/-- 20_memory.md R56: commands run in the order presented and none looks ahead. The run over xs then ys is the run
over ys from where the run over xs ends. -/
def Obligations.RunsComposeInProgramOrder : Prop :=
  ∀ (xs ys : List PortSample) (s : State),
    ∃ t, core.run xs.length { s with inputs := xs } = .next t ∧ t.inputs = [] ∧
      core.run (xs.length + ys.length) { s with inputs := xs ++ ys } =
        core.run ys.length { t with inputs := ys }

/-! ### Whole-machine rules over the commands -/

/-- 10_state.md R32: q_valid is 1 exactly for CHECK, RD8, RD16 and RDF when they do not fault, q carries the value
their rules give, and q is no state: what it held (the model keeps it, log 4) reaches no later step. -/
def Obligations.ResultIsDrivenOnlyByReadingCommands : Prop :=
  (∀ (i : Instr) (s t : State), exec i s = .next t → t.q = drivenQ s i) ∧
  (∀ (s t : State) (p : PortSample) (rest : List PortSample) (c : FaultCause),
    s.inputs = p :: rest → p.rst = false → p.cmdValid = true → decode p.cmd = .error c → step s = .next t →
    t.q = none) ∧
  (∀ (i : Instr) (s : State) (q : Option Word), exec i { s with q := q } = exec i s) ∧
  (∀ (s : State) (q : Option Word), step { s with q := q } = step s)

/-- 10_state.md R29: which flags each command keeps, inverts or writes with a fixed value (a computed flag is the
matter of the command's own rule), and that a fault writes no flag. -/
def Obligations.FlagsAreWrittenAsTheTableSays : Prop :=
  (∀ (i : Instr) (s t : State) (f : Flag), exec i s = .next t →
    match flagRule s.flagPos i f with
    | .kept => flag f t = flag f s
    | .inverted => flag f t = !flag f s
    | .written v => flag f t = v
    | .computed => True) ∧
  (∀ (s t : State) (p : PortSample) (rest : List PortSample) (c : FaultCause),
    s.inputs = p :: rest → p.rst = false → p.cmdValid = true → decode p.cmd = .error c → step s = .next t →
    ∀ f, flag f t = flag f s)

/-- 10_state.md R24: an 8-bit holder and a 16-bit holder never share storage: a command that changes a holder of
one file leaves the whole other file alone. -/
def Obligations.RegisterFilesShareNoStorage : Prop :=
  ∀ (i : Instr) (s t : State), exec i s = .next t →
    (∀ r : Reg8, readReg8 r t ≠ readReg8 r s → SameReg16 s t) ∧
    (∀ r : Reg16, readReg16 r t ≠ readReg16 r s → SameReg8 s t)

/-- 10_state.md R25: PC is a 16-bit holder and nothing more. The command a step runs does not depend on PC, and a
command or step that does not name PC does the same whatever PC holds; PC changes only by a command that names it,
and no idle, faulting or faulted step advances it; it wraps under INC16, and has no alignment. -/
def Obligations.ProgramCounterIsAPlainHolder : Prop :=
  (∀ (s : State) (v : Word), nextSample (writeReg16 .pc v s) = nextSample s ∧
    ∀ i, RunsNext (writeReg16 .pc v s) i ↔ RunsNext s i) ∧
  (∀ (i : Instr) (s t : State) (v : Word), exec i s = .next t → namesPc i = false →
    exec i (writeReg16 .pc v s) = .next (writeReg16 .pc v t)) ∧
  (∀ (s t : State) (v : Word), step s = .next t → (nextSample s).rst = false →
    (∀ i, RunsNext s i → namesPc i = false) →
    step (writeReg16 .pc v s) = .next (writeReg16 .pc v t)) ∧
  (∀ (i : Instr) (s t : State), exec i s = .next t → writesPc i = false →
    readReg16 .pc t = readReg16 .pc s) ∧
  (∀ s t : State, step s = .next t → (nextSample s).rst = false →
    (∀ i, RunsNext s i → writesPc i = false) → readReg16 .pc t = readReg16 .pc s) ∧
  (∀ s : State, ∃ t, exec (.inc16 .pc) s = .next t ∧
    (readReg16 .pc t).toNat = ((readReg16 .pc s).toNat + 1) % 65536 ∧
    (readReg16 .pc s = 0xFFFF → readReg16 .pc t = 0x0000)) ∧
  (∀ (v : Word) (s : State), ∃ t, exec (.wr16 .pc v) s = .next t ∧ readReg16 .pc t = v)

/-- 40_flag_register.md R112: the flag commands are independent, and CHECK sees what they did. -/
def Obligations.CheckSeesTheFlagCommands : Prop :=
  (∀ (f g : Flag) (i : Instr) (s t : State), i ∈ [Instr.raise f, .clear f, .toggle f, .check f] →
    exec i s = .next t → g ≠ f → flag g t = flag g s) ∧
  (∀ (f : Flag) (s t : State), exec (.raise f) s = .next t →
    ∃ u, exec (.check f) t = .next u ∧ u.q = some 1) ∧
  (∀ (f : Flag) (s t : State), exec (.clear f) s = .next t →
    ∃ u, exec (.check f) t = .next u ∧ u.q = some 0) ∧
  (∀ (f : Flag) (s t u : State), exec (.toggle f) s = .next t → exec (.check f) s = .next u →
    ∃ v, exec (.check f) t = .next v ∧
      ((u.q = some 0 ∧ v.q = some 1) ∨ (u.q = some 1 ∧ v.q = some 0))) ∧
  (∀ (f : Flag) (s t : State), exec .resetAll s = .next t →
    ∃ u, exec (.check f) t = .next u ∧ u.q = some 0)

/-- 00_scope.md R8, 10_state.md R27: the parameter FLAG_POS is any injective map of the flags to the positions 7, 6,
5, 4, with the default of the spec; under every one of them the flags byte holds each named flag at its position
and a zero low nibble, and a single-bit write writes that flag alone. -/
def Obligations.FlagLayoutIsSoundForEveryBinding : Prop :=
  (∀ p : Flag → Nat, (∀ f, 4 ≤ p f ∧ p f ≤ 7) → (∀ f g, p f = p g → f = g) →
    ∃ b : Config.FlagPos, ∀ f, pos b f = p f) ∧
  (∀ b : Config.FlagPos, (∀ f, 4 ≤ pos b f ∧ pos b f ≤ 7) ∧ ∀ f g, pos b f = pos b g → f = g) ∧
  (pos Config.defaultFlagPos .zero = 7 ∧ pos Config.defaultFlagPos .subtract = 6 ∧
    pos Config.defaultFlagPos .halfCarry = 5 ∧ pos Config.defaultFlagPos .carry = 4) ∧
  (∀ (b : Config.FlagPos) (z n h c : Bool),
    isBitSet (flags b z n h c) (pos b .zero) = z ∧
    isBitSet (flags b z n h c) (pos b .subtract) = n ∧
    isBitSet (flags b z n h c) (pos b .halfCarry) = h ∧
    isBitSet (flags b z n h c) (pos b .carry) = c ∧
    (flags b z n h c).extractLsb' 0 4 = 0) ∧
  (∀ (b : Config.FlagPos) (v : Byte) (f : Flag) (x : Bool),
    isBitSet (assignBit v (pos b f) x) (pos b f) = x ∧
    (∀ g, g ≠ f → isBitSet (assignBit v (pos b f) x) (pos b g) = isBitSet v (pos b g)) ∧
    (assignBit v (pos b f) x).extractLsb' 0 4 = v.extractLsb' 0 4)

/-- 10_state.md R26, R34, 00_scope.md R8: the flag binding is permanent. No command changes it, and no run of any
number of steps does, resets and faults among them. -/
def Obligations.FlagBindingIsPermanent : Prop :=
  (∀ (i : Instr) (s t : State), exec i s = .next t → t.flagPos = s.flagPos) ∧
  (∀ (k : Nat) (s t : State), core.run k s = .next t → t.flagPos = s.flagPos)

/-- 10_state.md R27: every rule names flags, not bit numbers. Two blocks with any two bindings that agree by name
agree by name after every command, and on q, but for the two commands that carry F as a byte: WRF agrees when its
operands agree by name, and RDF's results agree by name. -/
def Obligations.CommandsDependOnFlagsByNameOnly : Prop :=
  ∀ s s' : State, SameByName s s' →
    (∀ i : Instr, (∀ v, i ≠ .wrf v) → i ≠ .rdf → ∃ t t', exec i s = .next t ∧ exec i s' = .next t' ∧
      SameByName t t' ∧ t'.q = t.q) ∧
    (∀ v v' : Byte, (∀ f, v'.getLsbD (pos s'.flagPos f) = v.getLsbD (pos s.flagPos f)) →
      ∃ t t', exec (.wrf v) s = .next t ∧ exec (.wrf v') s' = .next t' ∧ SameByName t t' ∧ t'.q = t.q) ∧
    ∃ t t' x x', exec .rdf s = .next t ∧ exec .rdf s' = .next t' ∧ SameByName t t' ∧
      t.q = some x ∧ t'.q = some x' ∧ ∀ f, x'.getLsbD (pos s'.flagPos f) = x.getLsbD (pos s.flagPos f)

/-! ### The bit primitives and the detector -/

/-- 40_flag_register.md R100 to R104: each primitive acts on its own bit and alters no other. -/
def Obligations.BitPrimitivesActOnOneBit : Prop :=
  ∀ (v : Byte) (p : Nat), p < 8 →
    setBit v p = v ||| (1#8 <<< p) ∧ clearBit v p = v &&& (0xFF#8 ^^^ (1#8 <<< p)) ∧
    toggleBit v p = v ^^^ (1#8 <<< p) ∧
    (∀ j < 8, (setBit v p).getLsbD j = if j = p then true else v.getLsbD j) ∧
    (∀ j < 8, (clearBit v p).getLsbD j = if j = p then false else v.getLsbD j) ∧
    (∀ j < 8, (toggleBit v p).getLsbD j = if j = p then !v.getLsbD j else v.getLsbD j) ∧
    (isBitSet v p = true ↔ v.getLsbD p = true) ∧
    getBitValue v p = if isBitSet v p then 1 else 0

/-- 41_half_carry_detector.md R137: the comparison forms of the detector equal the bit-level forms, for all
operands. -/
def Obligations.DetectorEqualsItsGateForms : Prop :=
  (∀ (a b : Byte) (cin : Bool),
    let a9 := a.setWidth 9
    let b9 := b.setWidth 9
    let c9 := (BitVec.ofBool cin).setWidth 9
    let sum := a9 + b9 + c9
    let diff := a9 - b9 - c9
    hcAdd a b cin = (a9 ^^^ b9 ^^^ sum).getLsbD 4 ∧ hbSub a b cin = (a9 ^^^ b9 ^^^ diff).getLsbD 4 ∧
    cyAdd8 a b cin = sum.getLsbD 8 ∧ bwSub8 a b cin = diff.getLsbD 8) ∧
  (∀ x y : Word,
    let x17 := x.setWidth 17
    let y17 := y.setWidth 17
    let sum := x17 + y17
    hcAdd16 x y = (x17 ^^^ y17 ^^^ sum).getLsbD 12 ∧ cyAdd16 x y = sum.getLsbD 16)

/-- 41_half_carry_detector.md R133, R134: the tests on the new value, on the old value and as an addition or
subtraction of 1 are the same. -/
def Obligations.IncrementDetectorsHaveThreeForms : Prop :=
  ∀ old : Byte,
    (hcInc (trunc8 ((old.toNat : Int) + 1)) = decide ((old.toNat + 1) % 256 % 16 = 0) ∧
      hcInc (trunc8 ((old.toNat : Int) + 1)) = decide (old.toNat % 16 = 15) ∧
      hcInc (trunc8 ((old.toNat : Int) + 1)) = hcAdd old 0x01 false) ∧
    (hbDec (trunc8 ((old.toNat : Int) - 1)) = decide ((old.toNat + 255) % 256 % 16 = 15) ∧
      hbDec (trunc8 ((old.toNat : Int) - 1)) = decide (old.toNat % 16 = 0) ∧
      hbDec (trunc8 ((old.toNat : Int) - 1)) = hbSub old 0x01 false)

/-! ### The flag commands -/

/-- 40_flag_register.md R106. -/
def Obligations.RaiseSetsItsFlagOnly : Prop :=
  (∀ f : Flag, decode (0x08000000 ||| inRd f.code) = .ok (.raise f)) ∧
  NoForm 0x01 true ∧ FormFaults 0x01 false 0x047FFFFF (fun _ => False) ∧
  ∀ (f : Flag) (s : State), ∃ t, exec (.raise f) s = .next t ∧
    readF t = setBit (readF s) (pos s.flagPos f) ∧ flag f t = true ∧ SameFlagsBut f s t ∧ LowNibbleZero t ∧ OnlyF s t

/-- 40_flag_register.md R107. -/
def Obligations.ClearClearsItsFlagOnly : Prop :=
  (∀ f : Flag, decode (0x10000000 ||| inRd f.code) = .ok (.clear f)) ∧
  NoForm 0x02 true ∧ FormFaults 0x02 false 0x047FFFFF (fun _ => False) ∧
  ∀ (f : Flag) (s : State), ∃ t, exec (.clear f) s = .next t ∧
    readF t = clearBit (readF s) (pos s.flagPos f) ∧ flag f t = false ∧ SameFlagsBut f s t ∧ LowNibbleZero t ∧ OnlyF s t

/-- 40_flag_register.md R108, with its corner case: two in a row restore F. -/
def Obligations.ToggleInvertsItsFlagOnly : Prop :=
  (∀ f : Flag, decode (0x18000000 ||| inRd f.code) = .ok (.toggle f)) ∧
  NoForm 0x03 true ∧ FormFaults 0x03 false 0x047FFFFF (fun _ => False) ∧
  ∀ (f : Flag) (s : State), ∃ t, exec (.toggle f) s = .next t ∧
    readF t = toggleBit (readF s) (pos s.flagPos f) ∧ flag f t = (!flag f s) ∧ SameFlagsBut f s t ∧ LowNibbleZero t ∧
    OnlyF s t ∧ ∃ u, exec (.toggle f) t = .next u ∧ readF u = readF s

/-- 40_flag_register.md R109. -/
def Obligations.CheckReportsItsFlag : Prop :=
  (∀ f : Flag, decode (0x20000000 ||| inRd f.code) = .ok (.check f)) ∧
  NoForm 0x04 true ∧ FormFaults 0x04 false 0x047FFFFF (fun _ => False) ∧
  ∀ (f : Flag) (s : State), ∃ t, exec (.check f) s = .next t ∧
    t.q = some (if isBitSet (readF s) (pos s.flagPos f) then 1 else 0) ∧
    SameBlock s t ∧ SameControl s t

/-- 40_flag_register.md R110. -/
def Obligations.ResetAllZeroesF : Prop :=
  decode 0x28000000 = .ok .resetAll ∧
  NoForm 0x05 true ∧ FormFaults 0x05 false 0x077FFFFF (fun _ => False) ∧
  ∀ s : State, ∃ t, exec .resetAll s = .next t ∧
    readF t = 0x00 ∧ (∀ f, flag f t = false) ∧ OnlyF s t

/-! ### The 8-bit ALU -/

/-- 42_alu8.md R151. -/
def Obligations.Inc8AddsOneAndKeepsCarry : Prop :=
  (∀ rd : Reg8, decode (0x40000000 ||| inRd rd.code) = .ok (.inc8 rd)) ∧
  NoForm 0x08 true ∧ FormFaults 0x08 false 0x007FFFFF (fun w => rdBits w = 7) ∧
  ∀ (rd : Reg8) (s : State), ∃ t, exec (.inc8 rd) s = .next t ∧
    let new := ((readReg8 rd s).toNat + 1) % 256
    Alu8Effect rd s t new (decide (new = 0)) false (decide (new % 16 = 0)) (flag .carry s)

/-- 42_alu8.md R152. -/
def Obligations.Dec8SubtractsOneAndKeepsCarry : Prop :=
  (∀ rd : Reg8, decode (0x48000000 ||| inRd rd.code) = .ok (.dec8 rd)) ∧
  NoForm 0x09 true ∧ FormFaults 0x09 false 0x007FFFFF (fun w => rdBits w = 7) ∧
  ∀ (rd : Reg8) (s : State), ∃ t, exec (.dec8 rd) s = .next t ∧
    let new := ((readReg8 rd s).toNat + 255) % 256
    Alu8Effect rd s t new (decide (new = 0)) true (decide (new % 16 = 15)) (flag .carry s)

/-- 42_alu8.md R153, both forms. -/
def Obligations.Add8AddsAndSetsFourFlags : Prop :=
  (∀ rd rs : Reg8, decode (0x50000000 ||| inRd rd.code ||| inRs rs.code) = .ok (.add8Reg rd rs)) ∧
  (∀ (rd : Reg8) (v : Byte), decode (0x50800000 ||| inRd rd.code ||| v.setWidth 32) = .ok (.add8Imm rd v)) ∧
  FormFaults 0x0A false 0x000FFFFF (fun w => rdBits w = 7 ∨ rsBits w = 7) ∧
  FormFaults 0x0A true 0x007FFF00 (fun w => rdBits w = 7) ∧
  ∀ (i : Instr) (rd : Reg8) (v : Byte) (s : State),
    Form8 .add8Reg .add8Imm i rd v s →
    ∃ t, exec i s = .next t ∧
      let a := (readReg8 rd s).toNat
      let b := v.toNat
      Alu8Effect rd s t ((a + b) % 256) (decide ((a + b) % 256 = 0)) false (decide (a % 16 + b % 16 > 0xF))
        (decide (a + b > 0xFF))

/-- 42_alu8.md R154, both forms. -/
def Obligations.Adc8AddsWithCarryIn : Prop :=
  (∀ rd rs : Reg8, decode (0x58000000 ||| inRd rd.code ||| inRs rs.code) = .ok (.adc8Reg rd rs)) ∧
  (∀ (rd : Reg8) (v : Byte), decode (0x58800000 ||| inRd rd.code ||| v.setWidth 32) = .ok (.adc8Imm rd v)) ∧
  FormFaults 0x0B false 0x000FFFFF (fun w => rdBits w = 7 ∨ rsBits w = 7) ∧
  FormFaults 0x0B true 0x007FFF00 (fun w => rdBits w = 7) ∧
  ∀ (i : Instr) (rd : Reg8) (v : Byte) (s : State),
    Form8 .adc8Reg .adc8Imm i rd v s →
    ∃ t, exec i s = .next t ∧
      let a := (readReg8 rd s).toNat
      let b := v.toNat
      let cin := if flag .carry s then 1 else 0
      Alu8Effect rd s t ((a + b + cin) % 256) (decide ((a + b + cin) % 256 = 0)) false
        (decide (cin + b % 16 + a % 16 > 0xF)) (decide (a + cin + b > 0xFF))

/-- 42_alu8.md R155, both forms. -/
def Obligations.Sub8SubtractsAndSetsFourFlags : Prop :=
  (∀ rd rs : Reg8, decode (0x60000000 ||| inRd rd.code ||| inRs rs.code) = .ok (.sub8Reg rd rs)) ∧
  (∀ (rd : Reg8) (v : Byte), decode (0x60800000 ||| inRd rd.code ||| v.setWidth 32) = .ok (.sub8Imm rd v)) ∧
  FormFaults 0x0C false 0x000FFFFF (fun w => rdBits w = 7 ∨ rsBits w = 7) ∧
  FormFaults 0x0C true 0x007FFF00 (fun w => rdBits w = 7) ∧
  ∀ (i : Instr) (rd : Reg8) (v : Byte) (s : State),
    Form8 .sub8Reg .sub8Imm i rd v s →
    ∃ t, exec i s = .next t ∧
      let a := (readReg8 rd s).toNat
      let b := v.toNat
      Alu8Effect rd s t ((a + 256 - b) % 256) (decide (a = b)) true (decide (a % 16 < b % 16)) (decide (a < b))

/-- 42_alu8.md R156, both forms; `b + cin` is the exact number 0..256. -/
def Obligations.Sbc8SubtractsWithCarryIn : Prop :=
  (∀ rd rs : Reg8, decode (0x68000000 ||| inRd rd.code ||| inRs rs.code) = .ok (.sbc8Reg rd rs)) ∧
  (∀ (rd : Reg8) (v : Byte), decode (0x68800000 ||| inRd rd.code ||| v.setWidth 32) = .ok (.sbc8Imm rd v)) ∧
  FormFaults 0x0D false 0x000FFFFF (fun w => rdBits w = 7 ∨ rsBits w = 7) ∧
  FormFaults 0x0D true 0x007FFF00 (fun w => rdBits w = 7) ∧
  ∀ (i : Instr) (rd : Reg8) (v : Byte) (s : State),
    Form8 .sbc8Reg .sbc8Imm i rd v s →
    ∃ t, exec i s = .next t ∧
      let a := (readReg8 rd s).toNat
      let b := v.toNat
      let cin := if flag .carry s then 1 else 0
      Alu8Effect rd s t ((a + 256 - (b + cin)) % 256) (decide (a = b + cin)) true
        (decide (a % 16 < b % 16 + cin)) (decide (a < b + cin))

/-- 42_alu8.md R160: SBC8 at 0x00 - 0xFF - 1 stores 0x00 with Zero 0, and no other operands make Zero differ from
"the stored result is zero". -/
def Obligations.Sbc8ZeroCornerIsUnique : Prop :=
  ∀ (i : Instr) (rd : Reg8) (v : Byte) (s : State), Form8 .sbc8Reg .sbc8Imm i rd v s →
    ∃ t, exec i s = .next t ∧
      (flag .zero t ≠ decide (readReg8 rd t = 0) ↔
        readReg8 rd s = 0x00 ∧ v = 0xFF ∧ flag .carry s = true) ∧
      (readReg8 rd s = 0x00 ∧ v = 0xFF ∧ flag .carry s = true →
        readReg8 rd t = 0x00 ∧ flag .zero t = false ∧ flag .subtract t = true ∧ flag .halfCarry t = true ∧
        flag .carry t = true ∧ LowNibbleZero t)

/-- 42_alu8.md R159 (a): INC8 then DEC8 on one holder restores it, keeps Carry, and leaves the decrement's flags;
Subtract differs between the two. -/
def Obligations.IncThenDecRestores : Prop :=
  ∀ (rd : Reg8) (s : State), ∃ t u, exec (.inc8 rd) s = .next t ∧ exec (.dec8 rd) t = .next u ∧
    readReg8 rd u = readReg8 rd s ∧ flag .subtract t = false ∧ flag .subtract u = true ∧
    flag .zero u = decide (readReg8 rd s = 0) ∧
    flag .halfCarry u = decide ((readReg8 rd s).toNat % 16 = 15) ∧ flag .carry u = flag .carry s

/-- 42_alu8.md R159 (b): ADD8 then SUB8 of the same operand restores the accumulator, with the flags of the
subtraction whatever the addition left. -/
def Obligations.AddThenSubRestores : Prop :=
  ∀ (i : Instr) (rd : Reg8) (v : Byte) (s : State), Form8 .add8Reg .add8Imm i rd v s →
    ∃ t, exec i s = .next t ∧ ∀ j, Form8 .sub8Reg .sub8Imm j rd v t →
      ∃ u, exec j t = .next u ∧
        readReg8 rd u = readReg8 rd s ∧ flag .subtract u = true ∧
        flag .carry u = decide ((readReg8 rd t).toNat < v.toNat) ∧
        flag .halfCarry u = decide ((readReg8 rd t).toNat % 16 < v.toNat % 16) ∧
        flag .zero u = decide (readReg8 rd s = 0)

/-- 42_alu8.md R159 (e), (f): with Carry clear, ADC8 is ADD8 and SBC8 is SUB8, in value and all four flags, in
both forms. -/
def Obligations.CarryClearMakesAdcAddAndSbcSub : Prop :=
  ∀ s : State, flag .carry s = false →
    (∀ rd rs : Reg8, exec (.adc8Reg rd rs) s = exec (.add8Reg rd rs) s ∧
      exec (.sbc8Reg rd rs) s = exec (.sub8Reg rd rs) s) ∧
    (∀ (rd : Reg8) (v : Byte), exec (.adc8Imm rd v) s = exec (.add8Imm rd v) s ∧
      exec (.sbc8Imm rd v) s = exec (.sub8Imm rd v) s)

/-! ### The 16-bit adder -/

/-- 43_alu16.md R181. -/
def Obligations.Inc16TouchesNoFlag : Prop :=
  (∀ rd : Reg16, decode (0x80000000 ||| inRd rd.code) = .ok (.inc16 rd)) ∧
  NoForm 0x10 true ∧ FormFaults 0x10 false 0x007FFFFF (fun w => rdBits w ≥ 5) ∧
  ∀ (rd : Reg16) (s : State), ∃ t, exec (.inc16 rd) s = .next t ∧
    Word16Effect rd s t (((readReg16 rd s).toNat + 1) % 65536)

/-- 43_alu16.md R182, with its corner case: DEC16 and INC16 undo each other. -/
def Obligations.Dec16TouchesNoFlag : Prop :=
  (∀ rd : Reg16, decode (0x88000000 ||| inRd rd.code) = .ok (.dec16 rd)) ∧
  NoForm 0x11 true ∧ FormFaults 0x11 false 0x007FFFFF (fun w => rdBits w ≥ 5) ∧
  ∀ (rd : Reg16) (s : State), ∃ t, exec (.dec16 rd) s = .next t ∧
    Word16Effect rd s t (((readReg16 rd s).toNat + 65535) % 65536) ∧
    (∃ u, exec (.inc16 rd) t = .next u ∧ readReg16 rd u = readReg16 rd s) ∧
    (∀ u, exec (.inc16 rd) s = .next u → ∃ v, exec (.dec16 rd) u = .next v ∧
      readReg16 rd v = readReg16 rd s)

/-- 43_alu16.md R183, both forms: Zero is not written. -/
def Obligations.Add16AddsAndKeepsZero : Prop :=
  (∀ rd rs : Reg16, decode (0x90000000 ||| inRd rd.code ||| inRs rs.code) = .ok (.add16Reg rd rs)) ∧
  (∀ (rd : Reg16) (v : Word),
    decode (0x90800000 ||| inRd rd.code ||| v.setWidth 32) = .ok (.add16Imm rd v)) ∧
  FormFaults 0x12 false 0x000FFFFF (fun w => rdBits w ≥ 5 ∨ rsBits w ≥ 5) ∧
  FormFaults 0x12 true 0x007F0000 (fun w => rdBits w ≥ 5) ∧
  ∀ (i : Instr) (rd : Reg16) (v : Word) (s : State),
    Form16 i rd v s →
    ∃ t, exec i s = .next t ∧
      let x := (readReg16 rd s).toNat
      let y := v.toNat
      (readReg16 rd t).toNat = (x + y) % 65536 ∧
      flag .zero t = flag .zero s ∧ flag .subtract t = false ∧
      flag .halfCarry t = decide (x % 4096 + y % 4096 > 0xFFF) ∧ flag .carry t = decide (x + y > 0xFFFF) ∧
      LowNibbleZero t ∧ SameReg16But rd s t ∧ SameReg8 s t ∧ SameControl s t ∧ t.q = none

/-- 43_alu16.md R186: ADD8 on the low byte then ADC8 on the high byte gives ADD16's sum, Subtract, HalfCarry and
Carry; only Zero differs, which the pair takes from the high byte and ADD16 leaves. -/
def Obligations.BytePairAddEqualsAdd16ButForZero : Prop :=
  ∀ (i k : Instr) (hi lo : Reg8) (rr : Reg16) (y : Word) (s : State),
    hi ≠ lo → readReg16 rr s = readReg8 hi s ++ readReg8 lo s →
    Form8 .add8Reg .add8Imm i lo (y.extractLsb' 0 8) s → Form16 k rr y s →
    ∃ t v, exec i s = .next t ∧ exec k s = .next v ∧
      ∀ j, Form8 .adc8Reg .adc8Imm j hi (y.extractLsb' 8 8) t →
        ∃ u, exec j t = .next u ∧
          readReg16 rr v = readReg8 hi u ++ readReg8 lo u ∧
          flag .subtract v = flag .subtract u ∧ flag .halfCarry v = flag .halfCarry u ∧
          flag .carry v = flag .carry u ∧
          flag .zero u = decide (readReg8 hi u = 0) ∧ flag .zero v = flag .zero s

/-! ### Access -/

/-- 44_access.md R200. -/
def Obligations.Rd8DrivesTheHolder : Prop :=
  (∀ rd : Reg8, decode (0xC0000000 ||| inRd rd.code) = .ok (.rd8 rd)) ∧
  NoForm 0x18 true ∧ FormFaults 0x18 false 0x007FFFFF (fun w => rdBits w = 7) ∧
  ∀ (rd : Reg8) (s : State), ∃ t v, exec (.rd8 rd) s = .next t ∧
    t.q = some v ∧ v.toNat = (readReg8 rd s).toNat ∧ SameBlock s t ∧ SameControl s t

/-- 44_access.md R201. -/
def Obligations.Wr8WritesTheHolderOnly : Prop :=
  (∀ (rd : Reg8) (v : Byte), decode (0xC8800000 ||| inRd rd.code ||| v.setWidth 32) = .ok (.wr8 rd v)) ∧
  NoForm 0x19 false ∧ FormFaults 0x19 true 0x007FFF00 (fun w => rdBits w = 7) ∧
  ∀ (rd : Reg8) (v : Byte) (s : State), ∃ t, exec (.wr8 rd v) s = .next t ∧
    readReg8 rd t = v ∧ readF t = readF s ∧ SameReg8But rd s t ∧ SameReg16 s t ∧ SameControl s t ∧
    t.q = none

/-- 44_access.md R202. -/
def Obligations.Rd16DrivesTheHolder : Prop :=
  (∀ rd : Reg16, decode (0xD0000000 ||| inRd rd.code) = .ok (.rd16 rd)) ∧
  NoForm 0x1A true ∧ FormFaults 0x1A false 0x007FFFFF (fun w => rdBits w ≥ 5) ∧
  ∀ (rd : Reg16) (s : State), ∃ t, exec (.rd16 rd) s = .next t ∧
    t.q = some (readReg16 rd s) ∧ SameBlock s t ∧ SameControl s t

/-- 44_access.md R203. -/
def Obligations.Wr16WritesTheHolderOnly : Prop :=
  (∀ (rd : Reg16) (v : Word), decode (0xD8800000 ||| inRd rd.code ||| v.setWidth 32) = .ok (.wr16 rd v)) ∧
  NoForm 0x1B false ∧ FormFaults 0x1B true 0x007F0000 (fun w => rdBits w ≥ 5) ∧
  ∀ (rd : Reg16) (v : Word) (s : State), ∃ t, exec (.wr16 rd v) s = .next t ∧
    readReg16 rd t = v ∧ readF t = readF s ∧ SameReg16But rd s t ∧ SameReg8 s t ∧ SameControl s t ∧
    t.q = none

/-- 44_access.md R204: q[15:8] and q[3:0] are 0 and each flag's bit is what CHECK returns. -/
def Obligations.RdfDrivesTheFlagsByte : Prop :=
  decode 0xE0000000 = .ok .rdf ∧
  NoForm 0x1C true ∧ FormFaults 0x1C false 0x077FFFFF (fun _ => False) ∧
  ∀ s : State, ∃ t v, exec .rdf s = .next t ∧
    t.q = some v ∧ v.toNat = (readF s).toNat ∧ v.extractLsb' 8 8 = 0 ∧ v.extractLsb' 0 4 = 0 ∧
    (∀ f : Flag, ∃ u, exec (.check f) s = .next u ∧ u.q = some (if v.getLsbD (pos s.flagPos f) then 1 else 0)) ∧
    SameBlock s t ∧ SameControl s t

/-- 44_access.md R205: the low nibble of the operand is discarded. -/
def Obligations.WrfWritesFourFlagsAndMasks : Prop :=
  (∀ v : Byte, decode (0xE8800000 ||| v.setWidth 32) = .ok (.wrf v)) ∧
  NoForm 0x1D false ∧ FormFaults 0x1D true 0x077FFF00 (fun _ => False) ∧
  ∀ (v : Byte) (s : State), ∃ t, exec (.wrf v) s = .next t ∧
    readF t = v &&& 0xF0 ∧ (∀ f : Flag, flag f t = v.getLsbD (pos s.flagPos f)) ∧ LowNibbleZero t ∧ OnlyF s t
end

