-- ==== Sys2Proof/Laws/State.lean ====
section
/-! SUPPORT. What each state operation does to each field and each accessor, so that no later proof unfolds a
record update. -/

namespace Sys2Proof.Machine

/-! ### Fields after a write -/

@[simp] theorem writeReg8_reg16 (r : Reg8) (v : Byte) (s : State) : (writeReg8 r v s).reg16 = s.reg16 := by
  cases r <;> rfl
@[simp] theorem writeReg8_fhi (r : Reg8) (v : Byte) (s : State) : (writeReg8 r v s).fhi = s.fhi := by
  cases r <;> rfl
@[simp] theorem writeReg8_fault (r : Reg8) (v : Byte) (s : State) : (writeReg8 r v s).fault = s.fault := by
  cases r <;> rfl
@[simp] theorem writeReg8_fcause (r : Reg8) (v : Byte) (s : State) : (writeReg8 r v s).fcause = s.fcause := by
  cases r <;> rfl
@[simp] theorem writeReg8_q (r : Reg8) (v : Byte) (s : State) : (writeReg8 r v s).q = s.q := by
  cases r <;> rfl
@[simp] theorem writeReg8_inputs (r : Reg8) (v : Byte) (s : State) : (writeReg8 r v s).inputs = s.inputs := by
  cases r <;> rfl
@[simp] theorem writeReg8_resetCount (r : Reg8) (v : Byte) (s : State) :
    (writeReg8 r v s).resetCount = s.resetCount := by
  cases r <;> rfl
@[simp] theorem writeReg8_flagPos (r : Reg8) (v : Byte) (s : State) :
    (writeReg8 r v s).flagPos = s.flagPos := by
  cases r <;> rfl

@[simp] theorem writeReg16_reg8 (r : Reg16) (v : Word) (s : State) : (writeReg16 r v s).reg8 = s.reg8 := by
  cases r <;> rfl
@[simp] theorem writeReg16_fhi (r : Reg16) (v : Word) (s : State) : (writeReg16 r v s).fhi = s.fhi := by
  cases r <;> rfl
@[simp] theorem writeReg16_fault (r : Reg16) (v : Word) (s : State) : (writeReg16 r v s).fault = s.fault := by
  cases r <;> rfl
@[simp] theorem writeReg16_fcause (r : Reg16) (v : Word) (s : State) : (writeReg16 r v s).fcause = s.fcause := by
  cases r <;> rfl
@[simp] theorem writeReg16_q (r : Reg16) (v : Word) (s : State) : (writeReg16 r v s).q = s.q := by
  cases r <;> rfl
@[simp] theorem writeReg16_inputs (r : Reg16) (v : Word) (s : State) : (writeReg16 r v s).inputs = s.inputs := by
  cases r <;> rfl
@[simp] theorem writeReg16_resetCount (r : Reg16) (v : Word) (s : State) :
    (writeReg16 r v s).resetCount = s.resetCount := by
  cases r <;> rfl
@[simp] theorem writeReg16_flagPos (r : Reg16) (v : Word) (s : State) :
    (writeReg16 r v s).flagPos = s.flagPos := by
  cases r <;> rfl

@[simp] theorem writeF_reg8 (v : Byte) (s : State) : (writeF v s).reg8 = s.reg8 := rfl
@[simp] theorem writeF_reg16 (v : Byte) (s : State) : (writeF v s).reg16 = s.reg16 := rfl
@[simp] theorem writeF_fhi (v : Byte) (s : State) : (writeF v s).fhi = v.extractLsb' 4 4 := rfl
@[simp] theorem writeF_fault (v : Byte) (s : State) : (writeF v s).fault = s.fault := rfl
@[simp] theorem writeF_fcause (v : Byte) (s : State) : (writeF v s).fcause = s.fcause := rfl
@[simp] theorem writeF_q (v : Byte) (s : State) : (writeF v s).q = s.q := rfl
@[simp] theorem writeF_inputs (v : Byte) (s : State) : (writeF v s).inputs = s.inputs := rfl
@[simp] theorem writeF_resetCount (v : Byte) (s : State) : (writeF v s).resetCount = s.resetCount := rfl
@[simp] theorem writeF_flagPos (v : Byte) (s : State) : (writeF v s).flagPos = s.flagPos := rfl

@[simp] theorem writeFlag_reg8 (f : Flag) (b : Bool) (s : State) : (writeFlag f b s).reg8 = s.reg8 := rfl
@[simp] theorem writeFlag_reg16 (f : Flag) (b : Bool) (s : State) : (writeFlag f b s).reg16 = s.reg16 := rfl
@[simp] theorem writeFlag_fault (f : Flag) (b : Bool) (s : State) : (writeFlag f b s).fault = s.fault := rfl
@[simp] theorem writeFlag_fcause (f : Flag) (b : Bool) (s : State) : (writeFlag f b s).fcause = s.fcause := rfl
@[simp] theorem writeFlag_q (f : Flag) (b : Bool) (s : State) : (writeFlag f b s).q = s.q := rfl
@[simp] theorem writeFlag_inputs (f : Flag) (b : Bool) (s : State) : (writeFlag f b s).inputs = s.inputs := rfl
@[simp] theorem writeFlag_resetCount (f : Flag) (b : Bool) (s : State) :
    (writeFlag f b s).resetCount = s.resetCount := rfl
@[simp] theorem writeFlag_flagPos (f : Flag) (b : Bool) (s : State) : (writeFlag f b s).flagPos = s.flagPos := rfl

/-! ### An accessor reads its own field only -/

theorem readReg8_congr {s t : State} (h : t.reg8 = s.reg8) (r : Reg8) : readReg8 r t = readReg8 r s := by
  cases r <;> simp [readReg8, h]

theorem readReg16_congr {s t : State} (h : t.reg16 = s.reg16) (r : Reg16) : readReg16 r t = readReg16 r s := by
  cases r <;> simp [readReg16, h]

theorem readF_congr {s t : State} (h : t.fhi = s.fhi) : readF t = readF s := by simp [readF, h]

theorem flag_congr {s t : State} (h : t.fhi = s.fhi) (hb : t.flagPos = s.flagPos) (f : Flag) :
    flag f t = flag f s := by
  simp [flag, readF_congr h, hb]

@[simp] theorem readReg8_writeReg8 (r : Reg8) (v : Byte) (s : State) : readReg8 r (writeReg8 r v s) = v := by
  cases r <;> rfl

theorem readReg8_writeReg8_of_ne {r r' : Reg8} (h : r' ≠ r) (v : Byte) (s : State) :
    readReg8 r' (writeReg8 r v s) = readReg8 r' s := by
  cases r <;> cases r' <;> first | rfl | exact absurd rfl h

@[simp] theorem readReg16_writeReg16 (r : Reg16) (v : Word) (s : State) :
    readReg16 r (writeReg16 r v s) = v := by
  cases r <;> rfl

theorem readReg16_writeReg16_of_ne {r r' : Reg16} (h : r' ≠ r) (v : Word) (s : State) :
    readReg16 r' (writeReg16 r v s) = readReg16 r' s := by
  cases r <;> cases r' <;> first | rfl | exact absurd rfl h

@[simp] theorem readReg8_writeReg16 (r : Reg8) (r' : Reg16) (v : Word) (s : State) :
    readReg8 r (writeReg16 r' v s) = readReg8 r s := readReg8_congr (by simp) r
@[simp] theorem readReg8_writeF (r : Reg8) (v : Byte) (s : State) : readReg8 r (writeF v s) = readReg8 r s :=
  readReg8_congr rfl r
@[simp] theorem readReg8_writeFlag (r : Reg8) (f : Flag) (b : Bool) (s : State) :
    readReg8 r (writeFlag f b s) = readReg8 r s := readReg8_congr rfl r

@[simp] theorem readReg16_writeReg8 (r : Reg16) (r' : Reg8) (v : Byte) (s : State) :
    readReg16 r (writeReg8 r' v s) = readReg16 r s := readReg16_congr (by simp) r
@[simp] theorem readReg16_writeF (r : Reg16) (v : Byte) (s : State) :
    readReg16 r (writeF v s) = readReg16 r s := readReg16_congr rfl r
@[simp] theorem readReg16_writeFlag (r : Reg16) (f : Flag) (b : Bool) (s : State) :
    readReg16 r (writeFlag f b s) = readReg16 r s := readReg16_congr rfl r

@[simp] theorem readF_writeReg8 (r : Reg8) (v : Byte) (s : State) : readF (writeReg8 r v s) = readF s :=
  readF_congr (by simp)
@[simp] theorem readF_writeReg16 (r : Reg16) (v : Word) (s : State) : readF (writeReg16 r v s) = readF s :=
  readF_congr (by simp)

/-! ### The output, the latch -/

@[simp] theorem driveQ_reg8 (q : Option Word) (s : State) : (driveQ q s).reg8 = s.reg8 := rfl
@[simp] theorem driveQ_reg16 (q : Option Word) (s : State) : (driveQ q s).reg16 = s.reg16 := rfl
@[simp] theorem driveQ_fhi (q : Option Word) (s : State) : (driveQ q s).fhi = s.fhi := rfl
@[simp] theorem driveQ_fault (q : Option Word) (s : State) : (driveQ q s).fault = s.fault := rfl
@[simp] theorem driveQ_fcause (q : Option Word) (s : State) : (driveQ q s).fcause = s.fcause := rfl
@[simp] theorem driveQ_inputs (q : Option Word) (s : State) : (driveQ q s).inputs = s.inputs := rfl
@[simp] theorem driveQ_resetCount (q : Option Word) (s : State) : (driveQ q s).resetCount = s.resetCount := rfl
@[simp] theorem driveQ_flagPos (q : Option Word) (s : State) : (driveQ q s).flagPos = s.flagPos := rfl
@[simp] theorem driveQ_q (q : Option Word) (s : State) : (driveQ q s).q = q := rfl
@[simp] theorem readReg8_driveQ (r : Reg8) (q : Option Word) (s : State) :
    readReg8 r (driveQ q s) = readReg8 r s := readReg8_congr rfl r
@[simp] theorem readReg16_driveQ (r : Reg16) (q : Option Word) (s : State) :
    readReg16 r (driveQ q s) = readReg16 r s := readReg16_congr rfl r
@[simp] theorem readF_driveQ (q : Option Word) (s : State) : readF (driveQ q s) = readF s := rfl
@[simp] theorem flag_driveQ (f : Flag) (q : Option Word) (s : State) : flag f (driveQ q s) = flag f s := rfl

@[simp] theorem latchFault_reg8 (c : FaultCause) (s : State) : (latchFault c s).reg8 = s.reg8 := rfl
@[simp] theorem latchFault_reg16 (c : FaultCause) (s : State) : (latchFault c s).reg16 = s.reg16 := rfl
@[simp] theorem latchFault_fhi (c : FaultCause) (s : State) : (latchFault c s).fhi = s.fhi := rfl
@[simp] theorem latchFault_q (c : FaultCause) (s : State) : (latchFault c s).q = s.q := rfl
@[simp] theorem latchFault_inputs (c : FaultCause) (s : State) : (latchFault c s).inputs = s.inputs := rfl
@[simp] theorem latchFault_resetCount (c : FaultCause) (s : State) : (latchFault c s).resetCount = s.resetCount := rfl
@[simp] theorem latchFault_flagPos (c : FaultCause) (s : State) : (latchFault c s).flagPos = s.flagPos := rfl
@[simp] theorem latchFault_fault (c : FaultCause) (s : State) : (latchFault c s).fault = true := rfl
@[simp] theorem latchFault_fcause (c : FaultCause) (s : State) : (latchFault c s).fcause = causeCode c := rfl
@[simp] theorem readReg8_latchFault (r : Reg8) (c : FaultCause) (s : State) :
    readReg8 r (latchFault c s) = readReg8 r s := readReg8_congr rfl r
@[simp] theorem readReg16_latchFault (r : Reg16) (c : FaultCause) (s : State) :
    readReg16 r (latchFault c s) = readReg16 r s := readReg16_congr rfl r
@[simp] theorem readF_latchFault (c : FaultCause) (s : State) : readF (latchFault c s) = readF s := rfl
@[simp] theorem flag_latchFault (f : Flag) (c : FaultCause) (s : State) :
    flag f (latchFault c s) = flag f s := rfl

@[simp] theorem causeCode_ne_zero (c : FaultCause) : causeCode c ≠ 0#2 := by cases c <;> decide

/-! ### The ends of a command: all they can answer -/

@[simp] theorem finish_eq_next {s t : State} : finish s = .next t ↔ t = driveQ none s := by
  simp [finish, eq_comm]

@[simp] theorem finishWith_eq_next {v : Word} {s t : State} :
    finishWith v s = .next t ↔ t = driveQ (some v) s := by
  simp [finishWith, eq_comm]

end Sys2Proof.Machine
end

