-- ==== Sys2Proof/Laws/Flags.lean ====
section
/-! SUPPORT. The flags byte: what is read back from it, and what the primitives do to a bit. -/

namespace Sys2Proof.Machine

/-! ### Positions -/

/-- What the type of bindings carries, as numbers. -/
theorem flagPos_facts (b : Config.FlagPos) :
    (4 ≤ b.zero ∧ b.zero ≤ 7) ∧ (4 ≤ b.subtract ∧ b.subtract ≤ 7) ∧ (4 ≤ b.halfCarry ∧ b.halfCarry ≤ 7) ∧
    (4 ≤ b.carry ∧ b.carry ≤ 7) ∧ b.zero ≠ b.subtract ∧ b.zero ≠ b.halfCarry ∧ b.zero ≠ b.carry ∧
    b.subtract ≠ b.halfCarry ∧ b.subtract ≠ b.carry ∧ b.halfCarry ≠ b.carry := by
  have h := b.valid
  simp [Config.isFlagPos] at h
  omega

theorem pos_lt (b : Config.FlagPos) (f : Flag) : pos b f < 8 := by
  have := flagPos_facts b
  cases f <;> simp only [pos] <;> omega

theorem pos_ge (b : Config.FlagPos) (f : Flag) : 4 ≤ pos b f := by
  have := flagPos_facts b
  cases f <;> simp only [pos] <;> omega

theorem pos_injective {b : Config.FlagPos} {f g : Flag} : pos b f = pos b g ↔ f = g := by
  have := flagPos_facts b
  cases f <;> cases g <;> simp only [pos, reduceCtorEq, iff_false] <;> omega

/-! ### The primitives, bit by bit (R100 to R103) -/

theorem getLsbD_one_shiftLeft (p j : Nat) (hj : j < 8) : (1#8 <<< p).getLsbD j = decide (j = p) := by
  simp only [BitVec.getLsbD_shiftLeft, hj, decide_true, Bool.true_and, BitVec.getLsbD_one]
  by_cases h : j = p
  · simp [h]
  · by_cases h' : j < p
    · simp [h, h']
    · have : j - p ≠ 0 := by omega
      simp [h, this]

theorem isBitSet_setBit (v : Byte) (p j : Nat) (hj : j < 8) :
    isBitSet (setBit v p) j = if j = p then true else isBitSet v j := by
  simp only [isBitSet, setBit, BitVec.getLsbD_or, getLsbD_one_shiftLeft _ _ hj]
  by_cases h : j = p <;> simp only [h, decide_true, decide_false, Bool.or_true, Bool.or_false, if_true, if_false]

theorem isBitSet_clearBit (v : Byte) (p j : Nat) (hj : j < 8) :
    isBitSet (clearBit v p) j = if j = p then false else isBitSet v j := by
  have ones : (0xFF#8).getLsbD j = true := by
    have : ∀ i : Fin 8, (0xFF#8).getLsbD i = true := by decide
    exact this ⟨j, hj⟩
  simp only [isBitSet, clearBit, BitVec.getLsbD_and, BitVec.getLsbD_xor, getLsbD_one_shiftLeft _ _ hj, ones]
  by_cases h : j = p <;> simp only [h, decide_true, decide_false, Bool.bne_true, Bool.bne_false, Bool.not_true,
    Bool.and_false, Bool.and_true, if_true, if_false]

theorem isBitSet_toggleBit (v : Byte) (p j : Nat) (hj : j < 8) :
    isBitSet (toggleBit v p) j = if j = p then !isBitSet v j else isBitSet v j := by
  simp only [isBitSet, toggleBit, BitVec.getLsbD_xor, getLsbD_one_shiftLeft _ _ hj]
  by_cases h : j = p <;> simp only [h, decide_true, decide_false, Bool.bne_true, Bool.bne_false, if_true, if_false]

theorem isBitSet_assignBit (v : Byte) (p j : Nat) (x : Bool) (hj : j < 8) :
    isBitSet (assignBit v p x) j = if j = p then x else isBitSet v j := by
  cases x
  · exact isBitSet_clearBit v p j hj
  · exact isBitSet_setBit v p j hj

/-! ### Reading F back -/

/-- The low nibble is tied to zero (10_state.md R28). -/
@[simp] theorem readF_lowNibble (s : State) : (readF s).extractLsb' 0 4 = 0 := by
  have h : ∀ x : BitVec 4, (x ++ 0#4).extractLsb' 0 4 = 0 := by decide
  exact h s.fhi

/-- A write of F keeps the high nibble of the operand and drops the low one. -/
@[simp] theorem readF_writeF (v : Byte) (s : State) : readF (writeF v s) = v &&& 0xF0 := by
  have h : ∀ v : Byte, v.extractLsb' 4 4 ++ 0#4 = v &&& 0xF0 := by decide
  exact h v

/-- A byte read from F passes through the mask unchanged. -/
theorem readF_and_F0 (s : State) : readF s &&& 0xF0 = readF s := by
  have h : ∀ x : BitVec 4, (x ++ 0#4 : Byte) &&& 0xF0 = x ++ 0#4 := by decide
  exact h s.fhi

theorem readF_eq_iff_fhi {s t : State} : readF t = readF s ↔ t.fhi = s.fhi := by
  have inj : ∀ x y : BitVec 4, x ++ 0#4 = y ++ 0#4 → x = y := by decide
  exact ⟨inj _ _, readF_congr⟩

theorem isBitSet_and_F0 (v : Byte) {p : Nat} (h4 : 4 ≤ p) (h8 : p < 8) :
    isBitSet (v &&& 0xF0) p = isBitSet v p := by
  have h : ∀ (v : Byte) (i : Fin 4), isBitSet (v &&& 0xF0) (4 + i) = isBitSet v (4 + i) := by decide
  have e : 4 + (p - 4) = p := by omega
  simpa [e] using h v ⟨p - 4, by omega⟩

theorem isBitSet_readF (s : State) (f : Flag) : isBitSet (readF s) (pos s.flagPos f) = flag f s := rfl

/-- A flag read back from a written byte. -/
@[simp] theorem flag_writeF (f : Flag) (v : Byte) (s : State) :
    flag f (writeF v s) = isBitSet v (pos s.flagPos f) := by
  rw [flag, readF_writeF, writeF_flagPos, isBitSet_and_F0 _ (pos_ge _ f) (pos_lt _ f)]

@[simp] theorem flag_writeReg8 (f : Flag) (r : Reg8) (v : Byte) (s : State) :
    flag f (writeReg8 r v s) = flag f s := flag_congr (by simp) (by simp) f
@[simp] theorem flag_writeReg16 (f : Flag) (r : Reg16) (v : Word) (s : State) :
    flag f (writeReg16 r v s) = flag f s := flag_congr (by simp) (by simp) f

@[simp] theorem flag_writeFlag (f : Flag) (b : Bool) (s : State) : flag f (writeFlag f b s) = b := by
  rw [writeFlag, flag_writeF, isBitSet_assignBit _ _ _ _ (pos_lt _ f), if_pos rfl]

theorem flag_writeFlag_of_ne {f g : Flag} (h : g ≠ f) (b : Bool) (s : State) :
    flag g (writeFlag f b s) = flag g s := by
  rw [writeFlag, flag_writeF, isBitSet_assignBit _ _ _ _ (pos_lt _ g), if_neg (mt pos_injective.mp h),
    isBitSet_readF]

/-! ### The flag commands' writes: a primitive at a flag's position acts on that flag alone (R106 to R108) -/

/-- A primitive that keeps a zero low nibble is read back whole. -/
theorem readF_writeF_primitive {op : Byte → Nat → Byte}
    (h : ∀ (x : BitVec 4) (i : Fin 4), op (x ++ 0#4) (4 + i) &&& 0xF0 = op (x ++ 0#4) (4 + i)) (f : Flag) (s : State) :
    readF (writeF (op (readF s) (pos s.flagPos f)) s) = op (readF s) (pos s.flagPos f) := by
  have := pos_lt s.flagPos f
  rw [readF_writeF, ← Nat.add_sub_cancel' (pos_ge s.flagPos f)]
  exact h s.fhi ⟨pos s.flagPos f - 4, by omega⟩

theorem readF_writeF_setBit (f : Flag) (s : State) :
    readF (writeF (setBit (readF s) (pos s.flagPos f)) s) = setBit (readF s) (pos s.flagPos f) :=
  readF_writeF_primitive (by decide) f s

theorem flag_writeF_setBit (f g : Flag) (s : State) :
    flag g (writeF (setBit (readF s) (pos s.flagPos f)) s) = if g = f then true else flag g s := by
  rw [flag_writeF, isBitSet_setBit _ _ _ (pos_lt _ g), isBitSet_readF]
  simp only [pos_injective]

theorem readF_writeF_clearBit (f : Flag) (s : State) :
    readF (writeF (clearBit (readF s) (pos s.flagPos f)) s) = clearBit (readF s) (pos s.flagPos f) :=
  readF_writeF_primitive (by decide) f s

theorem flag_writeF_clearBit (f g : Flag) (s : State) :
    flag g (writeF (clearBit (readF s) (pos s.flagPos f)) s) = if g = f then false else flag g s := by
  rw [flag_writeF, isBitSet_clearBit _ _ _ (pos_lt _ g), isBitSet_readF]
  simp only [pos_injective]

theorem readF_writeF_toggleBit (f : Flag) (s : State) :
    readF (writeF (toggleBit (readF s) (pos s.flagPos f)) s) = toggleBit (readF s) (pos s.flagPos f) :=
  readF_writeF_primitive (by decide) f s

theorem flag_writeF_toggleBit (f g : Flag) (s : State) :
    flag g (writeF (toggleBit (readF s) (pos s.flagPos f)) s) = if g = f then !flag g s else flag g s := by
  rw [flag_writeF, isBitSet_toggleBit _ _ _ (pos_lt _ g), isBitSet_readF]
  simp only [pos_injective]

/-! ### The assembled flags byte (R150) -/

theorem isBitSet_bitAt (p j : Nat) (v : Bool) (hj : j < 8) : isBitSet (bitAt p v) j = (v && decide (j = p)) := by
  cases v
  · simp [isBitSet, bitAt]
  · simpa [isBitSet, bitAt] using getLsbD_one_shiftLeft p j hj

theorem isBitSet_or (v w : Byte) (p : Nat) : isBitSet (v ||| w) p = (isBitSet v p || isBitSet w p) := by
  simp [isBitSet]

/-- The assembled byte holds at a flag's position the value of that flag, since no two flags share one. -/
theorem isBitSet_flags (b : Config.FlagPos) (z n h c : Bool) (f : Flag) :
    isBitSet (flags b z n h c) (pos b f) =
      (z && decide (f = .zero) || n && decide (f = .subtract) || h && decide (f = .halfCarry) ||
        c && decide (f = .carry)) := by
  show isBitSet (bitAt (pos b .zero) z ||| bitAt (pos b .subtract) n ||| bitAt (pos b .halfCarry) h |||
    bitAt (pos b .carry) c) _ = _
  simp only [isBitSet_or, isBitSet_bitAt _ _ _ (pos_lt b f), pos_injective]

@[simp] theorem isBitSet_flags_zero (b : Config.FlagPos) (z n h c : Bool) :
    isBitSet (flags b z n h c) (pos b .zero) = z := by
  simp [isBitSet_flags]

@[simp] theorem isBitSet_flags_subtract (b : Config.FlagPos) (z n h c : Bool) :
    isBitSet (flags b z n h c) (pos b .subtract) = n := by
  simp [isBitSet_flags]

@[simp] theorem isBitSet_flags_halfCarry (b : Config.FlagPos) (z n h c : Bool) :
    isBitSet (flags b z n h c) (pos b .halfCarry) = h := by
  simp [isBitSet_flags]

@[simp] theorem isBitSet_flags_carry (b : Config.FlagPos) (z n h c : Bool) :
    isBitSet (flags b z n h c) (pos b .carry) = c := by
  simp [isBitSet_flags]

/-! ### Truncation and the detector as numbers -/

theorem toNat_trunc8 (v : Int) : ((trunc8 v).toNat : Int) = v % 256 := by
  rw [trunc8, BitVec.toNat_ofInt]
  omega

theorem toNat_trunc16 (v : Int) : ((trunc16 v).toNat : Int) = v % 65536 := by
  rw [trunc16, BitVec.toNat_ofInt]
  omega

theorem byte_eq_zero_iff (v : Byte) : v = 0#8 ↔ v.toNat = 0 := by
  rw [← BitVec.toNat_inj]
  rfl

end Sys2Proof.Machine
end

