-- ==== Sys2Proof/Laws/Alu.lean ====
section
/-! SUPPORT. Everything the shared ends of the ALU commands do, and the values of the 8-bit operations as
numbers. -/

namespace Sys2Proof.Machine

/-! ### The shared ends -/

/-- All that `finishAlu8` does: one holder and the four flags, and nothing else (R150). -/
theorem finishAlu8_spec (rd : Reg8) (out : Alu8Out) (s : State) :
    ∃ t, finishAlu8 rd out s = .next t ∧ readReg8 rd t = out.value ∧
      (flag .zero t = out.z ∧ flag .subtract t = out.n ∧ flag .halfCarry t = out.h ∧ flag .carry t = out.c) ∧
      SameReg8But rd s t ∧ SameReg16 s t ∧ SameControl s t ∧ t.q = none := by
  refine ⟨_, rfl, by simp, by simp, fun r hr => ?_, fun r => by simp, by simp [SameControl], by simp⟩
  simp [readReg8_writeReg8_of_ne hr]

/-- All that `add16` does: one holder and the flags Subtract, HalfCarry and Carry, and nothing else (R183). -/
theorem add16_spec (rd : Reg16) (x y : Word) (s : State) :
    ∃ t, add16 rd x y s = .next t ∧ readReg16 rd t = trunc16 ((x.toNat : Int) + y.toNat) ∧
      (flag .zero t = flag .zero s ∧ flag .subtract t = false ∧ flag .halfCarry t = hcAdd16 x y ∧
        flag .carry t = cyAdd16 x y) ∧
      SameReg16But rd s t ∧ SameReg8 s t ∧ SameControl s t ∧ t.q = none := by
  refine ⟨_, rfl, by simp, by simp [flag_writeFlag_of_ne], fun r hr => ?_, fun r => by simp,
    by simp [SameControl], by simp⟩
  simp [readReg16_writeReg16_of_ne hr]

/-! ### Values as numbers (R10: exact, then truncated) -/

theorem increment8_value (a : Byte) (c : Bool) : (increment8 a c).value.toNat = (a.toNat + 1) % 256 := by
  have := toNat_trunc8 ((a.toNat : Int) + 1)
  simp only [increment8]
  omega

theorem decrement8_value (a : Byte) (c : Bool) : (decrement8 a c).value.toNat = (a.toNat + 255) % 256 := by
  have := toNat_trunc8 ((a.toNat : Int) - 1)
  simp only [decrement8]
  omega

theorem add8_value (a b : Byte) : (add8 a b).value.toNat = (a.toNat + b.toNat) % 256 := by
  have := toNat_trunc8 ((a.toNat : Int) + b.toNat)
  simp only [add8]
  omega

theorem adc8_value (a b : Byte) (cin : Bool) :
    (adc8 a b cin).value.toNat = (a.toNat + b.toNat + cin.toNat) % 256 := by
  have := toNat_trunc8 ((a.toNat : Int) + b.toNat + cin.toNat)
  simp only [adc8]
  omega

theorem sub8_value (a b : Byte) : (sub8 a b).value.toNat = (a.toNat + 256 - b.toNat) % 256 := by
  have := toNat_trunc8 ((a.toNat : Int) - b.toNat)
  have := a.isLt
  have := b.isLt
  simp only [sub8]
  omega

theorem sbc8_value (a b : Byte) (cin : Bool) :
    (sbc8 a b cin).value.toNat = (a.toNat + 256 - (b.toNat + cin.toNat)) % 256 := by
  have := toNat_trunc8 ((a.toNat : Int) - b.toNat - cin.toNat)
  have := a.isLt
  have := b.isLt
  have := Bool.toNat_le cin
  simp only [sbc8]
  omega

/-! ### Computed flags as numbers -/

theorem increment8_z (a : Byte) (c : Bool) : (increment8 a c).z = decide ((a.toNat + 1) % 256 = 0) := by
  rw [← increment8_value a c]
  exact decide_eq_decide.mpr (byte_eq_zero_iff _)

theorem decrement8_z (a : Byte) (c : Bool) : (decrement8 a c).z = decide ((a.toNat + 255) % 256 = 0) := by
  rw [← decrement8_value a c]
  exact decide_eq_decide.mpr (byte_eq_zero_iff _)

theorem add8_z (a b : Byte) : (add8 a b).z = decide ((a.toNat + b.toNat) % 256 = 0) := by
  rw [← add8_value a b]
  exact decide_eq_decide.mpr (byte_eq_zero_iff _)

theorem adc8_z (a b : Byte) (cin : Bool) : (adc8 a b cin).z = decide ((a.toNat + b.toNat + cin.toNat) % 256 = 0) := by
  rw [← adc8_value a b cin]
  exact decide_eq_decide.mpr (byte_eq_zero_iff _)

theorem increment8_h (a : Byte) (c : Bool) :
    (increment8 a c).h = decide ((a.toNat + 1) % 256 % 16 = 0) := by
  rw [← increment8_value a c]
  rfl

theorem decrement8_h (a : Byte) (c : Bool) :
    (decrement8 a c).h = decide ((a.toNat + 255) % 256 % 16 = 15) := by
  rw [← decrement8_value a c]
  rfl

/-! ### A clear carry-in is no carry-in (R159) -/

theorem adc8_false (a b : Byte) : adc8 a b false = add8 a b := by simp [adc8, add8]

theorem sbc8_false (a b : Byte) : sbc8 a b false = sub8 a b := by simp [sbc8, sub8]

end Sys2Proof.Machine
end

