-- ==== Sys2Proof/Laws/Encoding.lean ====
section
/-! SUPPORT. The fields of an encoded word, the tables read both ways, and what the decoder answers in each of
its cases. -/

namespace Sys2Proof

/-! ### The encoded word as a concatenation of its fields (R71) -/

theorem enc_eq_append (op : BitVec 5) (rd : BitVec 3) (m : Bool) (rs : BitVec 3) (imm : Word) :
    enc op rd m rs imm = op ++ rd ++ BitVec.ofBool m ++ rs ++ 0#4 ++ imm := by
  apply BitVec.eq_of_getLsbD_eq
  intro i hi
  simp only [enc, BitVec.getLsbD_or, BitVec.getLsbD_shiftLeft, BitVec.getLsbD_setWidth, BitVec.getLsbD_append]
  interval_cases i <;> simp

@[simp] theorem opField_enc (op : BitVec 5) (rd : BitVec 3) (m : Bool) (rs : BitVec 3) (imm : Word) :
    opField (enc op rd m rs imm) = op := by
  rw [enc_eq_append, opField]
  apply BitVec.eq_of_getLsbD_eq
  intro i hi
  simp only [BitVec.getLsbD_extractLsb', BitVec.getLsbD_append]
  interval_cases i <;> simp

@[simp] theorem rdField_enc (op : BitVec 5) (rd : BitVec 3) (m : Bool) (rs : BitVec 3) (imm : Word) :
    rdField (enc op rd m rs imm) = rd := by
  rw [enc_eq_append, rdField]
  apply BitVec.eq_of_getLsbD_eq
  intro i hi
  simp only [BitVec.getLsbD_extractLsb', BitVec.getLsbD_append]
  interval_cases i <;> simp

@[simp] theorem flagField_enc (op : BitVec 5) (rd : BitVec 3) (m : Bool) (rs : BitVec 3) (imm : Word) :
    flagField (enc op rd m rs imm) = rd.extractLsb' 0 2 := by
  rw [enc_eq_append, flagField]
  apply BitVec.eq_of_getLsbD_eq
  intro i hi
  simp only [BitVec.getLsbD_extractLsb', BitVec.getLsbD_append]
  interval_cases i <;> simp

@[simp] theorem mField_enc (op : BitVec 5) (rd : BitVec 3) (m : Bool) (rs : BitVec 3) (imm : Word) :
    mField (enc op rd m rs imm) = m := by
  rw [enc_eq_append, mField]
  simp only [BitVec.getLsbD_append]
  simp

@[simp] theorem rsField_enc (op : BitVec 5) (rd : BitVec 3) (m : Bool) (rs : BitVec 3) (imm : Word) :
    rsField (enc op rd m rs imm) = rs := by
  rw [enc_eq_append, rsField]
  apply BitVec.eq_of_getLsbD_eq
  intro i hi
  simp only [BitVec.getLsbD_extractLsb', BitVec.getLsbD_append]
  interval_cases i <;> simp

@[simp] theorem imm16Field_enc (op : BitVec 5) (rd : BitVec 3) (m : Bool) (rs : BitVec 3) (imm : Word) :
    imm16Field (enc op rd m rs imm) = imm := by
  rw [enc_eq_append, imm16Field]
  apply BitVec.eq_of_getLsbD_eq
  intro i hi
  simp only [BitVec.getLsbD_extractLsb', BitVec.getLsbD_append]
  interval_cases i <;> simp

@[simp] theorem imm8Field_enc (op : BitVec 5) (rd : BitVec 3) (m : Bool) (rs : BitVec 3) (v : Byte) :
    imm8Field (enc op rd m rs (v.setWidth 16)) = v := by
  rw [enc_eq_append, imm8Field]
  apply BitVec.eq_of_getLsbD_eq
  intro i hi
  simp only [BitVec.getLsbD_extractLsb', BitVec.getLsbD_append, BitVec.getLsbD_setWidth]
  interval_cases i <;> simp

/-- A word whose bits 19:16 are zero is its own fields put together. -/
theorem eq_enc_of_fields {w : CmdWord} (hz : w.extractLsb' 16 4 = 0) :
    w = enc (opField w) (rdField w) (mField w) (rsField w) (imm16Field w) := by
  rw [enc_eq_append]
  apply BitVec.eq_of_getLsbD_eq
  intro i hi
  have z : ∀ j < 4, w.getLsbD (16 + j) = false := by
    intro j hj
    have := congrArg (fun v => v.getLsbD j) hz
    simpa [BitVec.getLsbD_extractLsb', hj] using this
  have z0 := z 0 (by decide)
  have z1 := z 1 (by decide)
  have z2 := z 2 (by decide)
  have z3 := z 3 (by decide)
  simp only [opField, rdField, mField, rsField, imm16Field, BitVec.getLsbD_append, BitVec.getLsbD_extractLsb']
  interval_cases i <;> simp_all

/-! ### The tables read both ways -/

@[simp] theorem opcode?_code (op : Op) : opcode? op.code = some op := by cases op <;> rfl
@[simp] theorem reg8?_code (r : Reg8) : reg8? r.code = some r := by cases r <;> rfl
@[simp] theorem reg16?_code (r : Reg16) : reg16? r.code = some r := by cases r <;> rfl
@[simp] theorem flagOfId_code (f : Flag) : flagOfId (f.code.extractLsb' 0 2) = f := by cases f <;> rfl

theorem code_of_opcode? {c : BitVec 5} {op : Op} (h : opcode? c = some op) : op.code = c := by
  revert h
  revert op c
  decide

theorem code_of_reg8? {c : BitVec 3} {r : Reg8} (h : reg8? c = some r) : r.code = c := by
  revert h
  revert r c
  decide

theorem code_of_reg16? {c : BitVec 3} {r : Reg16} (h : reg16? c = some r) : r.code = c := by
  revert h
  revert r c
  decide

theorem reg8?_eq_none (c : BitVec 3) : reg8? c = none ↔ c.toNat = 7 := by
  revert c
  decide

theorem reg16?_eq_none (c : BitVec 3) : reg16? c = none ↔ 5 ≤ c.toNat := by
  revert c
  decide

/-! ### Bad selectors (R78 step 3) -/

theorem withR8_bad {w : CmdWord} (h : (rdField w).toNat = 7) (k : Reg8 → Instr) :
    withR8 w k = .error .illegalSelector := by
  rw [withR8, (reg8?_eq_none _).mpr h]

theorem withR8R8_bad {w : CmdWord} (h : (rdField w).toNat = 7 ∨ (rsField w).toNat = 7)
    (k : Reg8 → Reg8 → Instr) : withR8R8 w k = .error .illegalSelector := by
  rcases h with h | h
  · rw [withR8R8, (reg8?_eq_none _).mpr h]
  · rw [withR8R8, (reg8?_eq_none _).mpr h]
    cases reg8? (rdField w) <;> rfl

theorem withR16_bad {w : CmdWord} (h : 5 ≤ (rdField w).toNat) (k : Reg16 → Instr) :
    withR16 w k = .error .illegalSelector := by
  rw [withR16, (reg16?_eq_none _).mpr h]

theorem withR16R16_bad {w : CmdWord} (h : 5 ≤ (rdField w).toNat ∨ 5 ≤ (rsField w).toNat)
    (k : Reg16 → Reg16 → Instr) : withR16R16 w k = .error .illegalSelector := by
  rcases h with h | h
  · rw [withR16R16, (reg16?_eq_none _).mpr h]
  · rw [withR16R16, (reg16?_eq_none _).mpr h]
    cases reg16? (rdField w) <;> rfl

/-! ### The decoder case by case (R78) -/

theorem decode_illegalOp {w : CmdWord} (h : opcode? (opField w) = none) : decode w = .error .illegalOp := by
  simp only [decode, h]

theorem decode_noForm {w : CmdWord} {op : Op} (h : opcode? (opField w) = some op)
    (hf : op.format? (mField w) = none) : decode w = .error .illegalForm := by
  simp only [decode, h, hf]

theorem decode_mbz {w : CmdWord} {op : Op} {fmt : Format} (h : opcode? (opField w) = some op)
    (hf : op.format? (mField w) = some fmt) (hz : w &&& fmt.mbz ≠ 0) : decode w = .error .illegalForm := by
  simp only [decode, h, hf, if_neg hz]

theorem decode_form {w : CmdWord} {op : Op} {fmt : Format} (h : opcode? (opField w) = some op)
    (hf : op.format? (mField w) = some fmt) (hz : w &&& fmt.mbz = 0) : decode w = op.operands w := by
  simp only [decode, h, hf, if_pos hz]

/-- All that a successful decode can be (R78). -/
theorem decode_eq_ok {w : CmdWord} {i : Instr} (h : decode w = .ok i) :
    ∃ op fmt, opcode? (opField w) = some op ∧ op.format? (mField w) = some fmt ∧ w &&& fmt.mbz = 0 ∧
      op.operands w = .ok i := by
  unfold decode at h
  split at h
  · cases h
  · rename_i op ho
    split at h
    · cases h
    · rename_i fmt hf
      split at h
      · rename_i hz
        exact ⟨op, fmt, ho, hf, hz, h⟩
      · cases h

/-- All that a failing decode can be, cause by cause (R78, 60_exceptions.md R225). -/
theorem decode_eq_error {w : CmdWord} {c : FaultCause} (h : decode w = .error c) :
    (opcode? (opField w) = none ∧ c = .illegalOp) ∨
    ∃ op, opcode? (opField w) = some op ∧
      ((op.format? (mField w) = none ∧ c = .illegalForm) ∨
       ∃ fmt, op.format? (mField w) = some fmt ∧
        ((w &&& fmt.mbz ≠ 0 ∧ c = .illegalForm) ∨ (w &&& fmt.mbz = 0 ∧ op.operands w = .error c))) := by
  unfold decode at h
  split at h
  · rename_i ho
    cases h
    exact .inl ⟨ho, rfl⟩
  · rename_i op ho
    refine .inr ⟨op, ho, ?_⟩
    split at h
    · rename_i hf
      cases h
      exact .inl ⟨hf, rfl⟩
    · rename_i fmt hf
      refine .inr ⟨fmt, hf, ?_⟩
      split at h
      · rename_i hz
        exact .inr ⟨hz, h⟩
      · rename_i hz
        cases h
        exact .inl ⟨hz, rfl⟩

/-- A field that lies inside a must-be-zero mask is zero. -/
theorem extract_eq_zero_of_mbz {w mask : CmdWord} {start len : Nat} (hz : w &&& mask = 0)
    (hm : mask.extractLsb' start len = BitVec.allOnes len) : w.extractLsb' start len = 0 := by
  apply BitVec.eq_of_getLsbD_eq
  intro j hj
  have m := congrArg (fun v => v.getLsbD j) hm
  have z := congrArg (fun v => v.getLsbD (start + j)) hz
  simp only [BitVec.getLsbD_extractLsb', BitVec.getLsbD_allOnes, hj, decide_true, Bool.true_and] at m
  simp only [BitVec.getLsbD_and, m, Bool.and_true] at z
  rw [BitVec.getLsbD_extractLsb', z]
  simp

end Sys2Proof
end

