-- ==== Sys2Proof/Laws/PerInstr.lean ====
section
/-! SUPPORT. The family RowMatch: the word of every command is an instance of its own row of the opcode table
(30_encoding.md R72), one lemma per constructor. -/

namespace Sys2Proof.Laws.RowMatch

/-- The encoded word matches the mask and pattern of the command's row. -/
abbrev Statement (i : Instr) : Prop := i.row.isInstance (encode i) = true

/-- Masking a word with an immediate leaves the pattern whatever the immediate, if the mask's low half does not
meet it. -/
theorem enc_imm_matches {op : BitVec 5} {rd : BitVec 3} {imm : Word} (mask pattern : CmdWord) {low : Word}
    (hl : mask.extractLsb' 0 16 = low) (hm : low &&& imm = 0)
    (hz : enc op rd true 0 0 &&& mask = pattern) : (enc op rd true 0 imm &&& mask == pattern) = true := by
  have split : enc op rd true 0 imm = enc op rd true 0 0 ||| imm.setWidth 32 := by simp [enc]
  have clear : imm.setWidth 32 &&& mask = 0 := by
    apply BitVec.eq_of_getLsbD_eq
    intro i hi
    have bit := congrArg (fun v => v.getLsbD i) (hl ▸ hm)
    simp only [BitVec.getLsbD_and, BitVec.getLsbD_extractLsb', BitVec.getLsbD_setWidth, Nat.zero_add] at bit ⊢
    by_cases h : i < 16
    · rw [show (0 : CmdWord).getLsbD i = false by simp, Bool.and_comm]
      simpa [h, hi] using bit
    · simp [BitVec.getLsbD_of_ge imm i (by omega)]
  have distrib : (enc op rd true 0 0 ||| imm.setWidth 32) &&& mask =
      (enc op rd true 0 0 &&& mask) ||| (imm.setWidth 32 &&& mask) := by
    ext i
    simp [Bool.and_or_distrib_right]
  rw [split, distrib, clear, hz]
  simp

/-- An 8-bit immediate has no bit above bit 7. -/
theorem high_mask_and_imm8 (v : Byte) : 0xFF00#16 &&& v.setWidth 16 = 0 := by
  revert v
  decide

theorem raise (f : Flag) : Statement (.raise f) := by
  cases f <;> decide

theorem clear (f : Flag) : Statement (.clear f) := by
  cases f <;> decide

theorem toggle (f : Flag) : Statement (.toggle f) := by
  cases f <;> decide

theorem check (f : Flag) : Statement (.check f) := by
  cases f <;> decide

theorem resetAll : Statement .resetAll := by
  decide

theorem inc8 (rd : Reg8) : Statement (.inc8 rd) := by
  cases rd <;> decide

theorem dec8 (rd : Reg8) : Statement (.dec8 rd) := by
  cases rd <;> decide

theorem add8Reg (rd rs : Reg8) : Statement (.add8Reg rd rs) := by
  cases rd <;> cases rs <;> decide

theorem add8Imm (rd : Reg8) (v : Byte) : Statement (.add8Imm rd v) := by
  exact enc_imm_matches 0xF8FFFF00 0x50800000 (by decide) (high_mask_and_imm8 v) (by cases rd <;> decide)

theorem adc8Reg (rd rs : Reg8) : Statement (.adc8Reg rd rs) := by
  cases rd <;> cases rs <;> decide

theorem adc8Imm (rd : Reg8) (v : Byte) : Statement (.adc8Imm rd v) := by
  exact enc_imm_matches 0xF8FFFF00 0x58800000 (by decide) (high_mask_and_imm8 v) (by cases rd <;> decide)

theorem sub8Reg (rd rs : Reg8) : Statement (.sub8Reg rd rs) := by
  cases rd <;> cases rs <;> decide

theorem sub8Imm (rd : Reg8) (v : Byte) : Statement (.sub8Imm rd v) := by
  exact enc_imm_matches 0xF8FFFF00 0x60800000 (by decide) (high_mask_and_imm8 v) (by cases rd <;> decide)

theorem sbc8Reg (rd rs : Reg8) : Statement (.sbc8Reg rd rs) := by
  cases rd <;> cases rs <;> decide

theorem sbc8Imm (rd : Reg8) (v : Byte) : Statement (.sbc8Imm rd v) := by
  exact enc_imm_matches 0xF8FFFF00 0x68800000 (by decide) (high_mask_and_imm8 v) (by cases rd <;> decide)

theorem inc16 (rd : Reg16) : Statement (.inc16 rd) := by
  cases rd <;> decide

theorem dec16 (rd : Reg16) : Statement (.dec16 rd) := by
  cases rd <;> decide

theorem add16Reg (rd rs : Reg16) : Statement (.add16Reg rd rs) := by
  cases rd <;> cases rs <;> decide

theorem add16Imm (rd : Reg16) (v : Word) : Statement (.add16Imm rd v) := by
  exact enc_imm_matches 0xF8FF0000 0x90800000 (by decide) BitVec.zero_and (by cases rd <;> decide)

theorem rd8 (rd : Reg8) : Statement (.rd8 rd) := by
  cases rd <;> decide

theorem wr8 (rd : Reg8) (v : Byte) : Statement (.wr8 rd v) := by
  exact enc_imm_matches 0xF8FFFF00 0xC8800000 (by decide) (high_mask_and_imm8 v) (by cases rd <;> decide)

theorem rd16 (rd : Reg16) : Statement (.rd16 rd) := by
  cases rd <;> decide

theorem wr16 (rd : Reg16) (v : Word) : Statement (.wr16 rd v) := by
  exact enc_imm_matches 0xF8FF0000 0xD8800000 (by decide) BitVec.zero_and (by cases rd <;> decide)

theorem rdf : Statement .rdf := by
  decide

theorem wrf (v : Byte) : Statement (.wrf v) := by
  exact enc_imm_matches 0xFFFFFF00 0xE8800000 (by decide) (high_mask_and_imm8 v) (by decide)

end Sys2Proof.Laws.RowMatch
end

