-- ==== Sys2Proof/Laws/Step.lean ====
section
/-! SUPPORT. Everything one step can do: take a sample, then reset, run a command, take the fault, or nothing. -/

namespace Sys2Proof.Machine

/-! ### Taking a sample -/

@[simp] theorem takeSample_inputs (s : State) : (takeSample s).inputs = s.inputs.tail := rfl
@[simp] theorem takeSample_fault (s : State) : (takeSample s).fault = s.fault := rfl
@[simp] theorem takeSample_fcause (s : State) : (takeSample s).fcause = s.fcause := rfl
@[simp] theorem takeSample_fhi (s : State) : (takeSample s).fhi = s.fhi := rfl
@[simp] theorem takeSample_flagPos (s : State) : (takeSample s).flagPos = s.flagPos := rfl
@[simp] theorem takeSample_resetCount (s : State) : (takeSample s).resetCount = s.resetCount := rfl
@[simp] theorem readReg8_takeSample (r : Reg8) (s : State) : readReg8 r (takeSample s) = readReg8 r s :=
  readReg8_congr rfl r
@[simp] theorem readReg16_takeSample (r : Reg16) (s : State) : readReg16 r (takeSample s) = readReg16 r s :=
  readReg16_congr rfl r
@[simp] theorem readF_takeSample (s : State) : readF (takeSample s) = readF s := rfl
@[simp] theorem flag_takeSample (f : Flag) (s : State) : flag f (takeSample s) = flag f s := rfl

theorem nextSample_of_cons {s : State} {p : PortSample} {rest : List PortSample} (h : s.inputs = p :: rest) :
    nextSample s = p := by
  simp [nextSample, h]

theorem takeSample_of_cons {s : State} {p : PortSample} {rest : List PortSample} (h : s.inputs = p :: rest) :
    takeSample s = { s with inputs := rest } := by
  simp [takeSample, h]

theorem nextSample_of_nil {s : State} (h : s.inputs = []) : nextSample s = idleSample := by
  simp [nextSample, h]

/-! ### Reset -/

@[simp] theorem resetBlock_fault (s : State) : (resetBlock s).fault = false := rfl
@[simp] theorem resetBlock_fcause (s : State) : (resetBlock s).fcause = 0 := rfl
@[simp] theorem resetBlock_q (s : State) : (resetBlock s).q = none := rfl
@[simp] theorem resetBlock_flagPos (s : State) : (resetBlock s).flagPos = s.flagPos := rfl
@[simp] theorem resetBlock_inputs (s : State) : (resetBlock s).inputs = s.inputs := rfl

/-! ### The cases of a step -/

theorem step_reset {s : State} (h : (nextSample s).rst = true) :
    step s = .next (resetBlock (takeSample s)) := by
  simp [step, onSample, h]

theorem step_command {s : State} (hr : (nextSample s).rst = false) (hv : (nextSample s).cmdValid = true)
    (hf : s.fault = false) : step s = runCommand (nextSample s).cmd (takeSample s) := by
  simp [step, onSample, hr, hv, hf]

theorem step_idle {s : State} (hr : (nextSample s).rst = false) (h : (nextSample s).cmdValid = false) :
    step s = finish (takeSample s) := by
  simp [step, onSample, hr, h]

theorem step_stuck {s : State} (hr : (nextSample s).rst = false) (hf : s.fault = true) :
    step s = finish (takeSample s) := by
  simp [step, onSample, hr, hf]

theorem runCommand_ok {w : CmdWord} {i : Instr} (h : decode w = .ok i) (s : State) :
    runCommand w s = exec i s := by
  simp [runCommand, h]

theorem runCommand_error {w : CmdWord} {c : FaultCause} (h : decode w = .error c) (s : State) :
    runCommand w s = raiseFault c s := by
  simp [runCommand, h]

/-- All a step can do. -/
theorem step_cases (s : State) :
    ((nextSample s).rst = true ∧ step s = .next (resetBlock (takeSample s))) ∨
    ((nextSample s).rst = false ∧ ((nextSample s).cmdValid = false ∨ s.fault = true) ∧
      step s = .next (driveQ none (takeSample s))) ∨
    ((nextSample s).rst = false ∧ (nextSample s).cmdValid = true ∧ s.fault = false ∧
      ((∃ i, decode (nextSample s).cmd = .ok i ∧ step s = exec i (takeSample s)) ∨
       (∃ c, decode (nextSample s).cmd = .error c ∧
         step s = .next (driveQ none (latchFault c (takeSample s)))))) := by
  cases hr : (nextSample s).rst
  · cases hv : (nextSample s).cmdValid
    · exact .inr (.inl ⟨rfl, .inl rfl, step_idle hr hv⟩)
    · cases hf : s.fault
      · refine .inr (.inr ⟨rfl, rfl, rfl, ?_⟩)
        cases hd : decode (nextSample s).cmd with
        | ok i => exact .inl ⟨i, rfl, (step_command hr hv hf).trans (runCommand_ok hd _)⟩
        | error c => exact .inr ⟨c, rfl, (step_command hr hv hf).trans (runCommand_error hd _)⟩
      · exact .inr (.inl ⟨rfl, .inr rfl, step_stuck hr hf⟩)
  · exact .inl ⟨rfl, step_reset hr⟩

/-! ### Runs -/

theorem run_zero (s : State) : core.run 0 s = .next s := rfl

theorem run_succ_of_next {k : Nat} {s t : State} (h : step s = .next t) : core.run (k + 1) s = core.run k t := by
  have h' : core.step s = .next t := h
  simp only [Host.Core.run, h']

end Sys2Proof.Machine
end

