-- ==== Sys2Proof/Tests/Slice0.lean ====
section
/-! SUPPORT. The model's own tests. Expected results come from spec/95_test_vectors.md (the vector is named in
each comment) and from 30_encoding.md R79; none was taken from the model. -/

namespace Sys2Proof.Tests
open Sys2Proof.Machine Sys2Proof.Claim

/-! ### Helpers -/

/-- A small running state. -/
def base : State where
  reg8 := { a := 0, b := 0, c := 0, d := 0, e := 0, h := 0, l := 0 }
  reg16 := { bc := 0, de := 0, hl := 0, sp := 0, pc := 0 }
  fhi := 0
  fault := false
  fcause := 0
  q := none
  inputs := []
  resetCount := 0
  flagPos := Config.defaultFlagPos

/-- Another binding than the default: Carry 7, HalfCarry 6, Subtract 5, Zero 4. -/
def reversedFlagPos : Config.FlagPos := { zero := 4, subtract := 5, halfCarry := 6, carry := 7, valid := by decide }

/-- The base state with A = v and F = f. -/
def withA (v f : Byte) : State := writeF f (writeReg8 .a v base)

/-- The base state with HL = v and F = f. -/
def withHL (v : Word) (f : Byte) : State := writeF f (writeReg16 .hl v base)

/-- Every word of a list is rejected for one cause. -/
def faultsAs (c : FaultCause) : List CmdWord → Bool
  | [] => true
  | w :: ws => decode w == .error c && faultsAs c ws

/-- The outcome is a next state that passes a check. -/
def nextWith (r : Result) (p : State → Bool) : Bool :=
  match r with
  | .next t => p t
  | _ => false

/-- One 8-bit command on A gives this A and this F, and no q. -/
def givesA (i : Instr) (s : State) (v f : Byte) : Bool :=
  nextWith (exec i s) (fun t => readReg8 .a t == v && readF t == f && t.q == none)

/-- One 16-bit command on HL gives this HL and this F, and no q. -/
def givesHL (i : Instr) (s : State) (v : Word) (f : Byte) : Bool :=
  nextWith (exec i s) (fun t => readReg16 .hl t == v && readF t == f && t.q == none)

/-- One command gives this q and changes no state. -/
def givesQ (i : Instr) (s : State) (v : Word) : Bool :=
  nextWith (exec i s) (fun t => t == { s with q := some v })

/-- One command gives this F. -/
def givesF (i : Instr) (s : State) (f : Byte) : Bool :=
  nextWith (exec i s) (fun t => t == driveQ none (writeF f s))

/-! ### Decoding: one word per row, written out from 30_encoding.md R72, R73 -/

theorem test_decode_flag_commands :
    decode 0b00001_011_0_000_0000_0000000000000000#32 = .ok (.raise .carry) ∧
    decode 0b00010_001_0_000_0000_0000000000000000#32 = .ok (.clear .subtract) ∧
    decode 0b00011_010_0_000_0000_0000000000000000#32 = .ok (.toggle .halfCarry) ∧
    decode 0b00100_000_0_000_0000_0000000000000000#32 = .ok (.check .zero) ∧
    decode 0b00101_000_0_000_0000_0000000000000000#32 = .ok .resetAll := by decide

theorem test_decode_alu8_registers :
    decode 0b01000_001_0_000_0000_0000000000000000#32 = .ok (.inc8 .b) ∧
    decode 0b01001_101_0_000_0000_0000000000000000#32 = .ok (.dec8 .h) ∧
    decode 0b01010_000_0_001_0000_0000000000000000#32 = .ok (.add8Reg .a .b) ∧
    decode 0b01011_110_0_101_0000_0000000000000000#32 = .ok (.adc8Reg .l .h) ∧
    decode 0b01100_010_0_011_0000_0000000000000000#32 = .ok (.sub8Reg .c .d) ∧
    decode 0b01101_000_0_110_0000_0000000000000000#32 = .ok (.sbc8Reg .a .l) := by decide

theorem test_decode_alu8_immediates :
    decode 0b01010_000_1_000_0000_0000000011000110#32 = .ok (.add8Imm .a 0xC6) ∧
    decode 0b01011_101_1_000_0000_0000000000000111#32 = .ok (.adc8Imm .h 0x07) ∧
    decode 0b01100_110_1_000_0000_0000000000000001#32 = .ok (.sub8Imm .l 0x01) ∧
    decode 0b01101_101_1_000_0000_0000000011111111#32 = .ok (.sbc8Imm .h 0xFF) := by decide

theorem test_decode_alu16 :
    decode 0b10000_011_0_000_0000_0000000000000000#32 = .ok (.inc16 .sp) ∧
    decode 0b10001_100_0_000_0000_0000000000000000#32 = .ok (.dec16 .pc) ∧
    decode 0b10010_010_0_011_0000_0000000000000000#32 = .ok (.add16Reg .hl .sp) ∧
    decode 0b10010_010_1_000_0000_0000011100110101#32 = .ok (.add16Imm .hl 0x0735) := by decide

theorem test_decode_access :
    decode 0b11000_110_0_000_0000_0000000000000000#32 = .ok (.rd8 .l) ∧
    decode 0b11001_011_1_000_0000_0000000000001111#32 = .ok (.wr8 .d 0x0F) ∧
    decode 0b11010_001_0_000_0000_0000000000000000#32 = .ok (.rd16 .de) ∧
    decode 0b11011_100_1_000_0000_1111111111111111#32 = .ok (.wr16 .pc 0xFFFF) ∧
    decode 0b11100_000_0_000_0000_0000000000000000#32 = .ok .rdf ∧
    decode 0b11101_000_1_000_0000_0000000010100101#32 = .ok (.wrf 0xA5) := by decide

/-- Vectors T1 to T4, T6 to T9, T11, T13, T14. -/
theorem test_decode_faults_first :
    faultsAs .illegalOp [0x00000000, 0x30000000, 0xF8000000, 0xFFFFFFFF] ∧
    faultsAs .illegalForm [0x40000001, 0x40800000, 0x47000001, 0xC800003A, 0x0F000000, 0x0B000001] ∧
    faultsAs .illegalSelector [0x47000000] := by decide

/-- Vectors T16, T17, T20, T21, T23, T24, T26, T28, T30, T32, T34, T36. -/
theorem test_decode_faults_second :
    faultsAs .illegalSelector [0x95000000, 0x92500000, 0x50700000, 0xC7000000, 0x8D000000] ∧
    faultsAs .illegalForm [0x50110000, 0x508001C6, 0x50F000C6, 0x29000000, 0xE98000FF, 0xE0800000,
      0xDA81FFFF] := by decide

theorem test_decodeTableWord_ignores_bits_above :
    decodeTableWord 32 0x128000000 = some .resetAll ∧ decodeTableWord 32 0x30000000 = none := by decide

/-! ### Well-formedness: an ill-formed word for each check -/

theorem test_illformed_op : opAssigned 0x30000000 = false ∧ wellFormedWord 0x30000000 = false := by decide

theorem test_illformed_form :
    opAssigned 0x40000001 = true ∧ formCorrect 0x40000001 = false ∧ wellFormedWord 0x40000001 = false := by decide

theorem test_illformed_mode : formCorrect 0x40800000 = false ∧ formCorrect 0xC800003A = false := by decide

/-- A word that fails the third check and no other. -/
def badSelectorOnly (w : CmdWord) : Bool := formCorrect w && !selectorsNamed w && !wellFormedWord w

theorem test_illformed_selectors :
    badSelectorOnly 0x47000000 ∧ badSelectorOnly 0x50700000 ∧ badSelectorOnly 0x57800000 ∧
    badSelectorOnly 0x85000000 ∧ badSelectorOnly 0x92500000 ∧ badSelectorOnly 0x95800000 := by decide

theorem test_wellformed :
    wellFormedWord 0x0B000000 ∧ wellFormedWord 0x28000000 ∧ wellFormedWord 0x46000000 ∧
    wellFormedWord 0x50600000 ∧ wellFormedWord 0x508000FF ∧ wellFormedWord 0x8C000000 ∧
    wellFormedWord 0x92400000 ∧ wellFormedWord 0xDA80FFFF ∧ wellFormedWord 0xE88000FF := by decide

/-! ### The commands -/

/-- G1, G3. -/
theorem test_raise : givesF (.raise .zero) (withA 0 0x00) 0x80 ∧ givesF (.raise .halfCarry) (withA 0 0x20) 0x20 := by
  decide

/-- G4, G5. -/
theorem test_clear : givesF (.clear .subtract) (withA 0 0xF0) 0xB0 ∧ givesF (.clear .zero) (withA 0 0x00) 0x00 := by
  decide

/-- G7, G8. -/
theorem test_toggle :
    givesF (.toggle .halfCarry) (withA 0 0x20) 0x00 ∧ givesF (.toggle .carry) (withA 0 0xF0) 0xE0 := by decide

/-- G9, G10. -/
theorem test_check : givesQ (.check .zero) (withA 0 0x80) 1 ∧ givesQ (.check .carry) (withA 0 0xE0) 0 := by decide

/-- G11. -/
theorem test_resetAll : givesF .resetAll (withA 0 0xF0) 0x00 := by decide

/-- G1 and A1 by flag name, under the reversed binding (00_scope.md R8). -/
theorem test_other_binding :
    givesF (.raise .zero) { withA 0 0x00 with flagPos := reversedFlagPos } 0x10 ∧
    givesA (.add8Imm .a 0xC6) { withA 0x3A 0x00 with flagPos := reversedFlagPos } 0x00 0xD0 := by decide

/-- I4, I5. -/
theorem test_inc8 :
    givesA (.inc8 .a) (withA 0xFF 0x10) 0x00 0xB0 ∧ givesA (.inc8 .a) (withA 0x7F 0xF0) 0x80 0x30 := by decide

/-- Y2, Y3. -/
theorem test_dec8 :
    givesA (.dec8 .a) (withA 0x00 0x00) 0xFF 0x60 ∧ givesA (.dec8 .a) (withA 0x10 0x10) 0x0F 0x70 := by decide

/-- A1, A4. -/
theorem test_add8 :
    givesA (.add8Imm .a 0xC6) (withA 0x3A 0x00) 0x00 0xB0 ∧
    givesA (.add8Reg .a .b) (writeReg8 .b 0x10 (withA 0xF0 0x00)) 0x00 0x90 := by decide

/-- A6, with one holder as both operands. -/
theorem test_add8_same_holder : givesA (.add8Reg .a .a) (withA 0x80 0x10) 0x00 0x90 := by decide

/-- K3, K10. -/
theorem test_adc8 :
    givesA (.adc8Imm .a 0x00) (withA 0x0F 0x10) 0x10 0x20 ∧
    givesA (.adc8Reg .a .b) (writeReg8 .b 0x3B (withA 0xE1 0x10)) 0x1D 0x10 := by decide

/-- B2, B4. -/
theorem test_sub8 :
    givesA (.sub8Imm .a 0x01) (withA 0x00 0x00) 0xFF 0x70 ∧
    givesA (.sub8Reg .a .b) (writeReg8 .b 0x40 (withA 0x3E 0x00)) 0xFE 0x50 := by decide

/-- S6 (the corner of R160), S5. -/
theorem test_sbc8 :
    givesA (.sbc8Imm .a 0xFF) (withA 0x00 0x10) 0x00 0x70 ∧
    givesA (.sbc8Reg .a .b) (writeReg8 .b 0x4F (withA 0x3B 0x10)) 0xEB 0x70 := by decide

/-- W2, W3. -/
theorem test_inc16 :
    givesHL (.inc16 .hl) (withHL 0xFFFF 0x00) 0x0000 0x00 ∧
    givesHL (.inc16 .hl) (withHL 0x0FFF 0xF0) 0x1000 0xF0 := by decide

/-- W5, W6. -/
theorem test_dec16 :
    givesHL (.dec16 .hl) (withHL 0x0000 0x00) 0xFFFF 0x00 ∧
    givesHL (.dec16 .hl) (withHL 0x0001 0xA0) 0x0000 0xA0 := by decide

/-- X2, X8. -/
theorem test_add16 :
    givesHL (.add16Imm .hl 0x0001) (withHL 0x0FFF 0xF0) 0x1000 0xA0 ∧
    givesHL (.add16Reg .hl .bc) (writeReg16 .bc 0x1000 (withHL 0xF000 0x00)) 0x0000 0x10 := by decide

/-- X6, with one holder as both operands. -/
theorem test_add16_same_holder : givesHL (.add16Reg .hl .hl) (withHL 0x8A23 0x80) 0x1446 0xB0 := by decide

/-- M11, M4. -/
theorem test_reads :
    givesQ (.rd8 .l) (writeReg8 .l 0x25 base) 0x0025 ∧ givesQ (.rd16 .hl) (withHL 0x0FFF 0x00) 0x0FFF := by decide

/-- M1, M10. -/
theorem test_writes :
    exec (.wr8 .a 0x3A) base = .next { base with reg8 := { base.reg8 with a := 0x3A } } ∧
    exec (.wr16 .pc 0xFFFF) base = .next { base with reg16 := { base.reg16 with pc := 0xFFFF } } :=
  ⟨rfl, rfl⟩

/-- M9, M8. -/
theorem test_flag_byte_access :
    givesQ .rdf (withA 0 0xA0) 0x00A0 ∧ givesF (.wrf 0xA5) (withA 0 0x00) 0xA0 := by decide

/-- H9, H18, H20, H23. -/
theorem test_detector :
    hbSub 0x1F 0x0F true = true ∧ hcAdd16 0xF000 0x1000 = false ∧ hcAdd16 0x07FF 0x0800 = false ∧
    bwSub8 0x00 0xFF true = true := by decide

/-! ### The step -/

/-- Program P5, step 2: an illegal word latches FAULT with its cause. -/
theorem test_step_illegal :
    nextWith (step { base with inputs := [present 0x47000000] })
      (fun t => t == { base with fault := true, fcause := 3 }) := by decide

/-- Program P5, step 4: a legal read while faulted gives no q and changes nothing. -/
theorem test_step_while_faulted :
    nextWith (step { base with fault := true, fcause := 3, inputs := [present 0xC0000000] })
      (fun t => t == { base with fault := true, fcause := 3 }) := by decide

/-- Z3, Z4: reset wins over the command beside it and clears the fault. -/
theorem test_step_reset :
    nextWith (step { base with fault := true, fcause := 3, inputs := [⟨true, true, 0xC8800001⟩] })
      (fun t => !t.fault && t.fcause == 0 && t.q == none && t.inputs == []) := by decide

/-- A command is the first thing run after reset. -/
theorem test_first_command_after_reset :
    step (State.reset.withFetchWord 32 0x50100000) = exec (.add8Reg .a .b) State.reset := rfl

/-! ### Witnesses: each statement with hypotheses has inputs that meet all of them -/

theorem witness_EncodeOfDecodeIsTheWord : decode 0x508000C6 = .ok (.add8Imm .a 0xC6) := by decide

theorem witness_NoWordIsAnInstanceOfTwoRows : decode 0xE88000FF = .ok (.wrf 0xFF) := by decide

theorem witness_StepKeepsLatchConsistent :
    (LatchConsistent base ∧ ∃ t, step base = .next t) ∧
    (LatchConsistent { base with fault := true, fcause := 1 } ∧
      ∃ t, step { base with fault := true, fcause := 1 } = .next t) :=
  ⟨⟨by decide, _, rfl⟩, by decide, _, rfl⟩

theorem witness_LowNibbleOfFReadsZero :
    (∃ t, step base = .next t) ∧ ∃ t, exec (.wrf 0xFF) base = .next t := ⟨⟨_, rfl⟩, _, rfl⟩

theorem witness_StepRunsTheDecodedCommand :
    let s := { base with inputs := [present 0xE0000000] }
    s.inputs = present 0xE0000000 :: [] ∧ (present 0xE0000000).rst = false ∧
    (present 0xE0000000).cmdValid = true ∧ s.fault = false ∧ decode (present 0xE0000000).cmd = .ok .rdf := by decide

theorem witness_PresentedTableWordIsRunNext :
    base.fault = false ∧ decodeTableWord 32 0xE0000000 = some .rdf := by decide

theorem witness_IdleStepChangesNothing :
    base.inputs = [] ∧ ({ base with inputs := [idleSample] } : State).inputs = idleSample :: [] ∧
    idleSample.rst = false ∧ idleSample.cmdValid = false := by decide

theorem witness_IllegalWordOnlySetsTheFaultLatch :
    ∀ p ∈ [(0x00000000#32, FaultCause.illegalOp), (0x40800000#32, .illegalForm), (0x47000000#32, .illegalSelector)],
      ({ base with inputs := [present p.1] } : State).inputs = present p.1 :: [] ∧
      (present p.1).rst = false ∧ (present p.1).cmdValid = true ∧ base.fault = false ∧
      decode (present p.1).cmd = .error p.2 := by decide

theorem witness_FaultedBlockIsStuckUntilReset :
    let s := { base with fault := true, fcause := 3, inputs := [present 0xC0000000, assertReset] }
    (s.fault = true ∧ ∀ p ∈ s.inputs.take 1, p.rst = false) ∧
    (s.fault = true ∧ ∀ p ∈ s.inputs.take 0, p.rst = false) ∧ assertReset.rst = true := by decide

theorem witness_ResetWinsAndKeepsNoHolder :
    let p : PortSample := ⟨true, true, 0xC8800001⟩
    ({ base with inputs := [p] } : State).inputs = p :: [] ∧ p.rst = true ∧
    ({ withA 7 0xF0 with inputs := [assertReset] } : State).inputs = assertReset :: [] ∧ assertReset.rst = true ∧
    (withA 7 0xF0).resetCount = base.resetCount ∧ (withA 7 0xF0).flagPos = base.flagPos := by decide

theorem witness_LegalProgramNeverFaults :
    let s := { base with inputs := [present 0x46000000, idleSample, assertReset] }
    NoFault s ∧ LegalProgram s ∧ s.inputs.length ≤ 3 := by decide

theorem witness_ResultIsDrivenOnlyByReadingCommands :
    (∃ t, exec (.rd8 .a) base = .next t) ∧
    (∃ t, step { base with inputs := [present 0x47000000] } = .next t) ∧
    (present 0x47000000).rst = false ∧ (present 0x47000000).cmdValid = true ∧
    decode (present 0x47000000).cmd = .error .illegalSelector :=
  ⟨⟨_, rfl⟩, ⟨_, rfl⟩, by decide, by decide, by decide⟩

/-- A flag kept, inverted, written and computed; and a faulting word. -/
theorem witness_FlagsAreWrittenAsTheTableSays :
    flagRule Config.defaultFlagPos (.inc8 .a) .carry = .kept ∧
    flagRule Config.defaultFlagPos (.toggle .zero) .zero = .inverted ∧
    flagRule Config.defaultFlagPos (.sub8Imm .a 1) .subtract = .written true ∧
    flagRule Config.defaultFlagPos (.add8Imm .a 1) .zero = .computed ∧
    (∃ t, exec (.toggle .zero) base = .next t) ∧ decode (present 0x00000000).cmd = .error .illegalOp :=
  ⟨by decide, by decide, by decide, by decide, ⟨_, rfl⟩, by decide⟩

theorem witness_RegisterFilesShareNoStorage :
    (∃ t, exec (.wr8 .b 0x12) base = .next t ∧ readReg8 .b t ≠ readReg8 .b base) ∧
    (∃ t, exec (.wr16 .bc 0x1234) base = .next t ∧ readReg16 .bc t ≠ readReg16 .bc base) :=
  ⟨⟨_, rfl, by decide⟩, ⟨_, rfl, by decide⟩⟩

/-- A command that names no PC, run by a step; an idle and a faulted step beside a word that would write PC; and PC
at the wrap. -/
theorem witness_ProgramCounterIsAPlainHolder :
    (namesPc (.inc16 .sp) = false ∧ writesPc (.inc16 .sp) = false ∧ writesPc (.rd16 .pc) = false ∧
      (∃ t, exec (.inc16 .sp) base = .next t) ∧ ∃ t, exec (.rd16 .pc) base = .next t) ∧
    (RunsNext { base with inputs := [present 0x83000000] } (.inc16 .sp) ∧
      ∃ t, step { base with inputs := [present 0x83000000] } = .next t) ∧
    (decode 0x84000000 = .ok (.inc16 .pc) ∧
      (∀ i, ¬RunsNext { base with inputs := [⟨false, false, 0x84000000⟩] } i) ∧
      ∀ i, ¬RunsNext { base with fault := true, fcause := 1, inputs := [present 0x84000000] } i) ∧
    readReg16 .pc (writeReg16 .pc 0xFFFF base) = 0xFFFF :=
  ⟨⟨by decide, by decide, by decide, ⟨_, rfl⟩, _, rfl⟩, ⟨by decide, _, rfl⟩,
    ⟨by decide, fun _ h => Bool.noConfusion h.2.1, fun _ h => Bool.noConfusion h.2.2.1⟩, by decide⟩

theorem witness_CheckSeesTheFlagCommands :
    Flag.carry ≠ Flag.zero ∧ (∃ t, exec (.raise .zero) base = .next t) ∧ (∃ t, exec (.clear .zero) base = .next t) ∧
    (∃ t, exec (.toggle .zero) base = .next t) ∧ (∃ u, exec (.check .zero) base = .next u) ∧
    ∃ t, exec .resetAll base = .next t :=
  ⟨by decide, ⟨_, rfl⟩, ⟨_, rfl⟩, ⟨_, rfl⟩, ⟨_, rfl⟩, _, rfl⟩

theorem witness_FlagLayoutIsSoundForEveryBinding :
    (∀ f, 4 ≤ pos reversedFlagPos f ∧ pos reversedFlagPos f ≤ 7) ∧
    (∀ f g, pos reversedFlagPos f = pos reversedFlagPos g → f = g) ∧ Flag.carry ≠ Flag.zero := by
  refine ⟨fun f => ?_, fun f g => ?_, by decide⟩
  · cases f <;> decide
  · cases f <;> cases g <;> decide

theorem witness_FlagBindingIsPermanent :
    (∃ t, exec (.wrf 0xFF) base = .next t) ∧ ∃ t, core.run 2 { base with inputs := [assertReset] } = .next t :=
  ⟨⟨_, rfl⟩, _, rfl⟩

/-- Zero set under the default binding is F = 0x80, under the reversed one 0x10. -/
theorem witness_CommandsDependOnFlagsByNameOnly :
    SameByName (withA 7 0x80) { withA 7 0x10 with flagPos := reversedFlagPos } ∧
    (∀ f, (0x10#8).getLsbD (pos reversedFlagPos f) = (0x80#8).getLsbD (pos Config.defaultFlagPos f)) := by
  refine ⟨⟨fun _ => rfl, fun _ => rfl, fun f => ?_, rfl, rfl, rfl, rfl⟩, fun f => ?_⟩ <;> cases f <;> decide

theorem witness_BitPrimitivesActOnOneBit : 0 < 8 ∧ 7 < 8 := by decide

/-- Every op with one form, under the other m. -/
theorem witness_fault_clauses_no_form :
    faultsAs .illegalForm [0x08800000, 0x10800000, 0x18800000, 0x20800000, 0x28800000, 0x40800000, 0x48800000,
      0x80800000, 0x88800000, 0xC0800000, 0xD0800000, 0xE0800000, 0xC8000000, 0xD8000000,
      0xE8000000] := by decide

/-- Formats FL and N: a must-be-zero bit at either end of the mask, per op. -/
theorem witness_fault_clauses_flag_and_plain :
    faultsAs .illegalForm [0x0C000000, 0x08000001, 0x14000000, 0x10000001, 0x1C000000, 0x18000001, 0x24000000,
      0x20000001, 0x29000000, 0x2C000000, 0x28000001, 0xE1000000, 0xE4000000, 0xE0000001] := by decide

/-- Formats R1 and W1: the same. -/
theorem witness_fault_clauses_one_holder :
    faultsAs .illegalForm [0x40400000, 0x40000001, 0x48400000, 0x48000001, 0xC0400000, 0xC0000001, 0x80400000,
      0x80000001, 0x88400000, 0x88000001, 0xD0400000, 0xD0000001] := by decide

/-- Formats R2 and W2: the same. -/
theorem witness_fault_clauses_two_holders :
    faultsAs .illegalForm [0x50080000, 0x50000001, 0x58080000, 0x58000001, 0x60080000, 0x60000001, 0x68080000,
      0x68000001, 0x90080000, 0x90000001] := by decide

/-- Formats RI, WI and FI: the same. -/
theorem witness_fault_clauses_immediates :
    faultsAs .illegalForm [0x50C00000, 0x50800100, 0x58C00000, 0x58800100, 0x60C00000, 0x60800100, 0x68C00000,
      0x68800100, 0xC8C00000, 0xC8800100, 0x90C00000, 0x90810000, 0xD8C00000, 0xD8810000,
      0xEC800000, 0xE9800000, 0xE8C00000, 0xE8800100] := by decide

/-- Formats R1 and W1: a selector at the first and last value that names nothing, per op. -/
theorem witness_selector_clauses_one_holder :
    faultsAs .illegalSelector [0x47000000, 0x4F000000, 0xC7000000, 0x85000000, 0x87000000, 0x8D000000, 0x8F000000,
      0xD5000000, 0xD7000000] := by decide

/-- Formats R2 and W2: the same in either field. -/
theorem witness_selector_clauses_two_holders :
    faultsAs .illegalSelector [0x57000000, 0x50700000, 0x5F000000, 0x58700000, 0x67000000, 0x60700000, 0x6F000000,
      0x68700000, 0x95000000, 0x90500000] := by decide

/-- Formats RI and WI: the same. -/
theorem witness_selector_clauses_immediates :
    faultsAs .illegalSelector [0x57800000, 0x5F800000, 0x67800000, 0x6F800000, 0xCF800000, 0x95800000,
      0xDD800000] := by decide

/-- Both operand forms of a two-operand 8-bit command (ADD8, ADC8, SUB8, SBC8 and the statements over them). -/
theorem witness_Form8 :
    Form8 .sbc8Reg .sbc8Imm (.sbc8Reg .a .b) .a 0xFF (writeReg8 .b 0xFF (withA 0x00 0x10)) ∧
    Form8 .sbc8Reg .sbc8Imm (.sbc8Imm .a 0xFF) .a 0xFF (withA 0x00 0x10) ∧
    readReg8 .a (withA 0x00 0x10) = 0x00 ∧ flag .carry (withA 0x00 0x10) = true :=
  ⟨.inl ⟨.b, rfl, by decide⟩, .inr rfl, by decide, by decide⟩

/-- Both operand forms of ADD8, ADC8 and SUB8. -/
theorem witness_Form8_others :
    (Form8 .add8Reg .add8Imm (.add8Reg .a .b) .a 0x00 base ∧ Form8 .add8Reg .add8Imm (.add8Imm .a 7) .a 7 base) ∧
    (Form8 .adc8Reg .adc8Imm (.adc8Reg .a .b) .a 0x00 base ∧ Form8 .adc8Reg .adc8Imm (.adc8Imm .a 7) .a 7 base) ∧
    (Form8 .sub8Reg .sub8Imm (.sub8Reg .a .b) .a 0x00 base ∧ Form8 .sub8Reg .sub8Imm (.sub8Imm .a 7) .a 7 base) :=
  ⟨⟨.inl ⟨.b, rfl, by decide⟩, .inr rfl⟩, ⟨.inl ⟨.b, rfl, by decide⟩, .inr rfl⟩, .inl ⟨.b, rfl, by decide⟩, .inr rfl⟩

/-- Both operand forms of ADD16. -/
theorem witness_Form16 :
    Form16 (.add16Reg .hl .bc) .hl 0x1000 (writeReg16 .bc 0x1000 base) ∧ Form16 (.add16Imm .hl 7) .hl 7 base :=
  ⟨.inl ⟨.bc, rfl, by decide⟩, .inr rfl⟩

theorem witness_AddThenSubRestores :
    Form8 .add8Reg .add8Imm (.add8Reg .a .b) .a 0x00 base ∧ Form8 .sub8Reg .sub8Imm (.sub8Imm .a 0) .a 0x00 base :=
  ⟨.inl ⟨.b, rfl, by decide⟩, .inr rfl⟩

theorem witness_CarryClearMakesAdcAddAndSbcSub : flag .carry (withA 0x3A 0xE0) = false := by decide

theorem witness_Dec16TouchesNoFlag : ∃ u, exec (.inc16 .pc) base = .next u := ⟨_, rfl⟩

/-- Program P1: HL holds the pair of H and L, the low bytes are added first. -/
theorem witness_BytePairAddEqualsAdd16ButForZero :
    let s := writeReg16 .hl 0x1AF0 (writeReg8 .h 0x1A (writeReg8 .l 0xF0 base))
    Reg8.h ≠ Reg8.l ∧ readReg16 .hl s = readReg8 .h s ++ readReg8 .l s ∧
    Form8 .add8Reg .add8Imm (.add8Imm .l 0x35) .l ((0x0735#16).extractLsb' 0 8) s ∧
    Form16 (.add16Imm .hl 0x0735) .hl 0x0735 s ∧
    Form8 .adc8Reg .adc8Imm (.adc8Imm .h 0x07) .h ((0x0735#16).extractLsb' 8 8) s :=
  ⟨by decide, by decide, .inr rfl, .inr rfl, .inr rfl⟩

end Sys2Proof.Tests
end

/-! PROOFS. The layout of the flags byte under every flag binding: the values of FLAG_POS (00_scope.md R8), and
what the assembled byte and a single-bit write do to the low nibble (10_state.md R28). -/

namespace Sys2Proof.Machine

/-! ### The values of FLAG_POS -/

/-- Every injective map of the flags to the positions 7, 6, 5, 4 passes the check that the type of bindings
carries (R8). -/
theorem isFlagPos_of_injective {p : Flag → Nat} (range : ∀ f, 4 ≤ p f ∧ p f ≤ 7)
    (inj : Function.Injective p) :
    Config.isFlagPos (p .zero) (p .subtract) (p .halfCarry) (p .carry) = true := by
  simp [Config.isFlagPos, range, inj.eq_iff]

theorem exists_flagPos_of_injective {p : Flag → Nat} (range : ∀ f, 4 ≤ p f ∧ p f ≤ 7)
    (inj : Function.Injective p) : ∃ b : Config.FlagPos, ∀ f, pos b f = p f := by
  refine ⟨⟨p .zero, p .subtract, p .halfCarry, p .carry, isFlagPos_of_injective range inj⟩, fun f => ?_⟩
  cases f <;> rfl

/-! ### The low nibble -/

theorem lowNibble_eq_of_isBitSet {v w : Byte} (h : ∀ j < 4, isBitSet v j = isBitSet w j) :
    v.extractLsb' 0 4 = w.extractLsb' 0 4 := by
  apply BitVec.eq_of_getLsbD_eq
  intro j hj
  simpa [isBitSet, BitVec.getLsbD_extractLsb', hj] using h j hj

/-- No flag is held in the low nibble (10_state.md R26). -/
theorem ne_pos_of_lt {j : Nat} (hj : j < 4) (b : Config.FlagPos) (f : Flag) : j ≠ pos b f := by
  have := pos_ge b f
  omega

/-- A bit of the low nibble is at no flag's position, so no part of the assembled byte sets it. -/
theorem flags_lowNibble (b : Config.FlagPos) (z n h c : Bool) : (flags b z n h c).extractLsb' 0 4 = 0 := by
  refine lowNibble_eq_of_isBitSet (w := 0#8) fun j hj => ?_
  show isBitSet (bitAt (pos b .zero) z ||| bitAt (pos b .subtract) n ||| bitAt (pos b .halfCarry) h |||
    bitAt (pos b .carry) c) j = _
  have clear (f : Flag) (x : Bool) : isBitSet (bitAt (pos b f) x) j = false := by
    rw [isBitSet_bitAt _ _ _ (by omega), decide_eq_false (ne_pos_of_lt hj b f), Bool.and_false]
  simp only [isBitSet_or, clear, Bool.or_false]
  exact BitVec.getLsbD_zero.symm

/-! ### A single-bit write at a flag's position -/

theorem isBitSet_assignBit_pos (b : Config.FlagPos) (v : Byte) (f g : Flag) (x : Bool) :
    isBitSet (assignBit v (pos b f) x) (pos b g) = if g = f then x else isBitSet v (pos b g) := by
  simp only [isBitSet_assignBit _ _ _ _ (pos_lt b g), pos_injective]

theorem assignBit_pos_lowNibble (b : Config.FlagPos) (v : Byte) (f : Flag) (x : Bool) :
    (assignBit v (pos b f) x).extractLsb' 0 4 = v.extractLsb' 0 4 := by
  refine lowNibble_eq_of_isBitSet fun j hj => ?_
  rw [isBitSet_assignBit _ _ _ _ (by omega), if_neg (ne_pos_of_lt hj b f)]

/-- Settles O25: the type of FLAG_POS holds the injective maps and no others, and each clause on the flags byte
is read bit by bit, since positions are injective and all lie above the low nibble. -/
theorem flagLayoutIsSoundForEveryBinding : Obligations.FlagLayoutIsSoundForEveryBinding := by
  refine ⟨fun p range inj => ?_, fun b => ⟨fun f => ?_, fun f g => ?_⟩, ⟨rfl, rfl, rfl, rfl⟩, fun b z n h c => ?_,
    fun b v f x => ⟨?_, fun g hg => ?_, ?_⟩⟩
  · exact exists_flagPos_of_injective range fun f g => inj f g
  · exact ⟨pos_ge b f, Nat.le_of_lt_succ (pos_lt b f)⟩
  · exact pos_injective.mp
  · exact ⟨isBitSet_flags_zero .., isBitSet_flags_subtract .., isBitSet_flags_halfCarry .., isBitSet_flags_carry ..,
      flags_lowNibble b z n h c⟩
  · rw [isBitSet_assignBit_pos, if_pos rfl]
  · rw [isBitSet_assignBit_pos, if_neg hg]
  · exact assignBit_pos_lowNibble b v f x

end Sys2Proof.Machine

/-! PROOFS. What every command and every step leaves as it was: the frame of `exec` over all 25 commands
(10_state.md R24, R25, R32), and the statements on the fault latch, the flag binding, the register files and reset
that follow from it. -/

namespace Sys2Proof.Machine
open Sys2Proof.Claim

/-! ### The frame of a command -/

/-- What holds of the outcome `t` of every command `i` on `s`: the result it drives (R32), the control fields, and
that it writes into one register file at most (R24) and into PC only if it names PC as its destination (R25). -/
structure CommandFrame (i : Instr) (s t : State) : Prop where
  q : t.q = drivenQ s i
  control : SameControl s t
  oneFile : SameReg8 s t ∨ SameReg16 s t
  pc : writesPc i = false → readReg16 .pc t = readReg16 .pc s

theorem CommandFrame.of_sameReg16 {i : Instr} {s t : State} (reg16 : SameReg16 s t) (control : SameControl s t)
    (q : t.q = drivenQ s i) : CommandFrame i s t :=
  ⟨q, control, .inr reg16, fun _ => reg16 .pc⟩

theorem CommandFrame.of_sameReg16But {i : Instr} {rd : Reg16} {s t : State} (dest : writesPc i = (rd == .pc))
    (reg16 : SameReg16But rd s t) (reg8 : SameReg8 s t) (control : SameControl s t) (q : t.q = drivenQ s i) :
    CommandFrame i s t := by
  refine ⟨q, control, .inl reg8, fun h => reg16 .pc ?_⟩
  rintro rfl
  simp [dest] at h

theorem finishAlu8_frame {i : Instr} {s : State} (hq : drivenQ s i = none) (rd : Reg8) (out : Alu8Out) :
    ∃ t, finishAlu8 rd out s = .next t ∧ CommandFrame i s t := by
  obtain ⟨t, ht, -, -, -, reg16, control, q⟩ := finishAlu8_spec rd out s
  exact ⟨t, ht, .of_sameReg16 reg16 control (q.trans hq.symm)⟩

theorem finish_writeReg16_frame {i : Instr} {rd : Reg16} {s : State} (dest : writesPc i = (rd == .pc))
    (hq : drivenQ s i = none) (v : Word) :
    ∃ t, finish (writeReg16 rd v s) = .next t ∧ CommandFrame i s t := by
  refine ⟨_, rfl, .of_sameReg16But dest (fun r hr => ?_) (fun r => by simp) (by simp [SameControl]) hq.symm⟩
  simp [readReg16_writeReg16_of_ne hr]

theorem add16_frame {i : Instr} {rd : Reg16} {s : State} (dest : writesPc i = (rd == .pc))
    (hq : drivenQ s i = none) (x y : Word) : ∃ t, add16 rd x y s = .next t ∧ CommandFrame i s t := by
  obtain ⟨t, ht, -, -, reg16, reg8, control, q⟩ := add16_spec rd x y s
  exact ⟨t, ht, .of_sameReg16But dest reg16 reg8 control (q.trans hq.symm)⟩

theorem finish_writeF_frame {i : Instr} {s : State} (hq : drivenQ s i = none) (v : Byte) :
    ∃ t, finish (writeF v s) = .next t ∧ CommandFrame i s t :=
  ⟨_, rfl, .of_sameReg16 (fun r => by simp) (by simp [SameControl]) hq.symm⟩

theorem finishWith_frame {i : Instr} {v : Word} {s : State} (hq : some v = drivenQ s i) :
    ∃ t, finishWith v s = .next t ∧ CommandFrame i s t :=
  ⟨_, rfl, .of_sameReg16 (fun r => by simp) (by simp [SameControl]) hq⟩

/-- Every command answers a next state, in its frame. -/
theorem exec_frame (i : Instr) (s : State) : ∃ t, exec i s = .next t ∧ CommandFrame i s t := by
  cases i
  case raise | clear | toggle | resetAll | wrf => exact finish_writeF_frame rfl _
  case inc8 | dec8 | add8Reg | add8Imm | adc8Reg | adc8Imm | sub8Reg | sub8Imm | sbc8Reg | sbc8Imm =>
    exact finishAlu8_frame rfl _ _
  case inc16 | dec16 | wr16 => exact finish_writeReg16_frame rfl rfl _
  case add16Reg | add16Imm => exact add16_frame rfl rfl _ _
  case wr8 => exact ⟨_, rfl, .of_sameReg16 (fun r => by simp) (by simp [SameControl]) rfl⟩
  case check f =>
    refine finishWith_frame (congrArg some ?_)
    cases flag f s <;> rfl
  case rd16 => exact finishWith_frame rfl
  case rd8 | rdf => exact finishWith_frame (congrArg some (BitVec.ofNat_toNat 16 _).symm)

theorem exec_next_frame {i : Instr} {s t : State} (h : exec i s = .next t) : CommandFrame i s t := by
  obtain ⟨t', h', frame⟩ := exec_frame i s
  cases h.symm.trans h'
  exact frame

/-! ### The fault latch -/

/-- Settles O8, case by case of a step: reset clears both latches, a command keeps them and runs on an unfaulted block
only, and a fault sets FAULT with a code other than 0. -/
theorem stepKeepsLatchConsistent : Obligations.StepKeepsLatchConsistent := by
  rintro s t ⟨agree, -⟩ h
  obtain ⟨-, e⟩ | ⟨-, -, e⟩ | ⟨-, -, hf, ⟨i, -, e⟩ | ⟨c, -, e⟩⟩ := step_cases s
  · cases h.symm.trans e
    simp [LatchConsistent]
  · cases h.symm.trans e
    exact ⟨agree, fun _ => rfl⟩
  · obtain ⟨fault, fcause, -⟩ := (exec_next_frame (e.symm.trans h)).control
    rw [LatchConsistent, fault, fcause]
    exact ⟨agree, fun hf' => Bool.noConfusion (hf.symm.trans hf')⟩
  · cases h.symm.trans e
    simp [LatchConsistent]

/-- Settles O7: reset clears FAULT and FCAUSE together. -/
theorem resetStateIsLatchConsistent : Obligations.ResetStateIsLatchConsistent := by
  have clear (b : Config.FlagPos) (n : Nat) : LatchConsistent (State.afterReset b n) :=
    ⟨⟨fun _ => rfl, fun _ => rfl⟩, fun _ => rfl⟩
  exact ⟨clear _ _, clear⟩

/-! ### Reset values and the low nibble of F -/

/-- Settles O6: each accessor reads back the parameter of its selector. -/
theorem resetStateHasTheSpecifiedValues : Obligations.ResetStateHasTheSpecifiedValues := by
  refine ⟨rfl, fun b => ⟨rfl, rfl, readF_lowNibble _, fun r => ?_, fun r => ?_, rfl, rfl, rfl, rfl⟩⟩
  · cases r <;> rfl
  · cases r <;> rfl

/-- Settles O9: F[3:0] has no storage, so it reads 0 in every state (R28). -/
theorem lowNibbleOfFReadsZero : Obligations.LowNibbleOfFReadsZero :=
  ⟨readF_lowNibble _, fun _ t _ => readF_lowNibble t, fun _ _ t _ => readF_lowNibble t⟩

/-! ### The register files -/

/-- Settles O22: every command leaves one of the two files as it was. -/
theorem registerFilesShareNoStorage : Obligations.RegisterFilesShareNoStorage := by
  intro i s t h
  obtain same8 | same16 := (exec_next_frame h).oneFile
  · exact ⟨fun r changed => absurd (same8 r) changed, fun _ _ => same8⟩
  · exact ⟨fun _ _ => same16, fun r changed => absurd (same16 r) changed⟩

/-! ### The flag binding -/

theorem exec_flagPos {i : Instr} {s t : State} (h : exec i s = .next t) : t.flagPos = s.flagPos := by
  obtain ⟨-, -, -, -, flagPos⟩ := (exec_next_frame h).control
  exact flagPos

/-- No step stops, and none changes the binding. -/
theorem step_flagPos (s : State) : ∃ t, step s = .next t ∧ t.flagPos = s.flagPos := by
  obtain ⟨-, e⟩ | ⟨-, -, e⟩ | ⟨-, -, -, ⟨i, -, e⟩ | ⟨c, -, e⟩⟩ := step_cases s
  · exact ⟨_, e, rfl⟩
  · exact ⟨_, e, rfl⟩
  · obtain ⟨t, ht, -⟩ := exec_frame i (takeSample s)
    exact ⟨t, e.trans ht, (exec_flagPos ht).trans (takeSample_flagPos s)⟩
  · exact ⟨_, e, rfl⟩

theorem run_flagPos {k : Nat} {s t : State} (h : core.run k s = .next t) : t.flagPos = s.flagPos := by
  induction k generalizing s with
  | zero =>
    cases h
    rfl
  | succ k ih =>
    obtain ⟨u, hu, same⟩ := step_flagPos s
    rw [run_succ_of_next hu] at h
    exact (ih h).trans same

/-- Settles O54: the binding is kept by each command's frame, and by induction over the steps of a run. -/
theorem flagBindingIsPermanent : Obligations.FlagBindingIsPermanent :=
  ⟨fun _ _ _ h => exec_flagPos h, fun _ _ _ h => run_flagPos h⟩

/-! ### The step and the samples -/

/-- A presented word that decodes runs as its command. -/
theorem step_runsNext {s : State} {i : Instr} (h : RunsNext s i) : step s = exec i (takeSample s) := by
  obtain ⟨hr, hv, hf, hd⟩ := h
  exact (step_command hr hv hf).trans (runCommand_ok hd _)

/-- Settles O10: the sample at the head is the one the step takes, and its command runs next. -/
theorem stepRunsTheDecodedCommand : Obligations.StepRunsTheDecodedCommand := by
  intro s p rest i hs hr hv hf hd
  rw [← takeSample_of_cons hs]
  apply step_runsNext
  rw [RunsNext, nextSample_of_cons hs]
  exact ⟨hr, hv, hf, hd⟩

theorem decode_of_decodeTableWord {nbits w : Nat} {i : Instr} (h : decodeTableWord nbits w = some i) :
    decode (BitVec.ofNat 32 (w % 2 ^ nbits)) = .ok i := by
  unfold decodeTableWord at h
  split at h
  · rename_i hd
    cases h
    exact hd
  · cases h

/-- Settles O11: the word is the head of the samples, and taking it off gives back the state it was put on. -/
theorem presentedTableWordIsRunNext : Obligations.PresentedTableWordIsRunNext := by
  intro s nbits w i hf hw
  exact step_runsNext (s := s.withFetchWord nbits w) ⟨rfl, rfl, hf, decode_of_decodeTableWord hw⟩

/-- Settles O12: past the end of the samples the block sees the idle sample, so both cases are an idle step. -/
theorem idleStepChangesNothing : Obligations.IdleStepChangesNothing := by
  rintro s (hs | ⟨p, rest, hs, hr, hv⟩)
  · exact step_idle (by rw [nextSample_of_nil hs]; rfl) (by rw [nextSample_of_nil hs]; rfl)
  · exact step_idle (by rwa [nextSample_of_cons hs]) (by rwa [nextSample_of_cons hs])

end Sys2Proof.Machine

/-! PROOFS. The flags under every command, against the table of 10_state.md R29. -/

namespace Sys2Proof.Machine
open Sys2Proof.Claim

/-! ### What a rule of the table asks of a flag -/

/-- The flag `f` of `t` is what the rule makes of the flag `f` of `s` (R29). -/
def ObeysRule (f : Flag) (s t : State) : FlagRule → Prop
  | .kept => flag f t = flag f s
  | .inverted => flag f t = !flag f s
  | .written v => flag f t = v
  | .computed => True

/-- A write of one flag obeys a row that rules that flag alone. -/
theorem obeysRule_onlyFlag {f g : Flag} {r : FlagRule} {x : Bool} {s t : State}
    (after : flag f t = if f = g then x else flag f s) (own : flag f t = x → ObeysRule f s t r) :
    ObeysRule f s t (onlyFlag g r f) := by
  by_cases h : f = g
  · rw [onlyFlag, if_pos h]
    exact own (after.trans (if_pos h))
  · rw [onlyFlag, if_neg h]
    exact after.trans (if_neg h)

/-! ### The shared ends of the ALU commands obey their rows -/

/-- An 8-bit ALU command computes Zero and HalfCarry and writes its fixed Subtract. -/
theorem obeysRule_finishAlu8 {rd : Reg8} {out : Alu8Out} {n : Bool} {c : FlagRule} {s t : State}
    (h : finishAlu8 rd out s = .next t) (hn : out.n = n)
    (hc : flag .carry t = out.c → ObeysRule .carry s t c) (f : Flag) :
    ObeysRule f s t (flagRow .computed (.written n) .computed c f) := by
  obtain ⟨u, hu, -, ⟨-, subtract, -, carry⟩, -⟩ := finishAlu8_spec rd out s
  cases hu.symm.trans h
  cases f
  exacts [trivial, subtract.trans hn, trivial, hc carry]

theorem obeysRule_add16 {rd : Reg16} {x y : Word} {s t : State} (h : add16 rd x y s = .next t) (f : Flag) :
    ObeysRule f s t (flagRow .kept (.written false) .computed .computed f) := by
  obtain ⟨u, hu, -, ⟨zero, subtract, -⟩, -⟩ := add16_spec rd x y s
  cases hu.symm.trans h
  cases f
  exacts [zero, subtract, trivial, trivial]

/-- Every command obeys its row of the table. -/
theorem exec_obeysRule {i : Instr} {s t : State} (h : exec i s = .next t) (f : Flag) :
    ObeysRule f s t (flagRule s.flagPos i f) := by
  cases i
  case raise g =>
    cases h
    exact obeysRule_onlyFlag (flag_writeF_setBit g f s) id
  case clear g =>
    cases h
    exact obeysRule_onlyFlag (flag_writeF_clearBit g f s) id
  case toggle g =>
    cases h
    exact obeysRule_onlyFlag (flag_writeF_toggleBit g f s) id
  case resetAll =>
    cases h
    exact (flag_writeF f 0 s).trans BitVec.getLsbD_zero
  case wrf v =>
    cases h
    exact (flag_writeF f _ s).trans (isBitSet_and_F0 v (pos_ge _ f) (pos_lt _ f))
  case inc8 | dec8 => exact obeysRule_finishAlu8 h rfl id f
  case add8Reg | add8Imm | adc8Reg | adc8Imm | sub8Reg | sub8Imm | sbc8Reg | sbc8Imm =>
    exact obeysRule_finishAlu8 (c := .computed) h rfl (fun _ => trivial) f
  case add16Reg | add16Imm => exact obeysRule_add16 h f
  case inc16 | dec16 | wr16 =>
    cases h
    exact flag_writeReg16 f _ _ s
  case wr8 =>
    cases h
    exact flag_writeReg8 f _ _ s
  case check | rd8 | rd16 | rdf =>
    cases h
    rfl

/-! ### A presented word that does not decode -/

/-- Whether or not the block has faulted before, such a step drives no q and writes no flag. -/
theorem step_of_decode_error {s t : State} {p : PortSample} {rest : List PortSample} {c : FaultCause}
    (hs : s.inputs = p :: rest) (hr : p.rst = false) (hd : decode p.cmd = .error c)
    (h : step s = .next t) : t.q = none ∧ ∀ f, flag f t = flag f s := by
  rw [← nextSample_of_cons hs] at hr hd
  obtain ⟨hr', -⟩ | ⟨-, -, e⟩ | ⟨-, -, -, ⟨i, hi, -⟩ | ⟨c', -, e⟩⟩ := step_cases s
  · exact Bool.noConfusion (hr.symm.trans hr')
  · cases h.symm.trans e
    exact ⟨rfl, fun _ => rfl⟩
  · cases hd.symm.trans hi
  · cases h.symm.trans e
    exact ⟨rfl, fun _ => rfl⟩

/-- Settles O21: every command obeys its row, and a word that does not decode writes no flag. -/
theorem flagsAreWrittenAsTheTableSays : Obligations.FlagsAreWrittenAsTheTableSays := by
  refine ⟨fun i s t f h => ?_, fun s t p rest c hs hr _ hd h => (step_of_decode_error hs hr hd h).2⟩
  have obeys := exec_obeysRule h f
  cases hrule : flagRule s.flagPos i f <;> exact hrule ▸ obeys

end Sys2Proof.Machine

/-! PROOFS. Two runs of one command side by side. A relation between states that the state operations keep is kept
by every command, and three relations are such: the states agree but for q (10_state.md R32), they differ in PC
alone (R25), and they agree by name under any two flag bindings (R27). -/

namespace Sys2Proof.Machine
open Sys2Proof.Claim

/-! ### Operations in another order -/

theorem driveQ_writeReg8 (q : Option Word) (r : Reg8) (v : Byte) (s : State) :
    driveQ q (writeReg8 r v s) = writeReg8 r v (driveQ q s) := by
  cases r <;> rfl

theorem driveQ_writeReg16 (q : Option Word) (r : Reg16) (v : Word) (s : State) :
    driveQ q (writeReg16 r v s) = writeReg16 r v (driveQ q s) := by
  cases r <;> rfl

theorem writeReg16_writeReg8 (r : Reg16) (v : Word) (r' : Reg8) (v' : Byte) (s : State) :
    writeReg16 r v (writeReg8 r' v' s) = writeReg8 r' v' (writeReg16 r v s) := by
  cases r <;> cases r' <;> rfl

theorem writeReg16_pc_comm {r : Reg16} (h : r ≠ .pc) (v v' : Word) (s : State) :
    writeReg16 .pc v (writeReg16 r v' s) = writeReg16 r v' (writeReg16 .pc v s) := by
  cases r
  case pc => exact absurd rfl h
  all_goals rfl

/-! ### The four flags are the whole of F -/

/-- Every bit of the high nibble is the place of some flag: four flags, four places, no two alike. -/
theorem exists_flag_at (b : Config.FlagPos) {j : Nat} (h4 : 4 ≤ j) (h8 : j < 8) : ∃ f, pos b f = j := by
  by_contra none
  have away (f : Flag) : pos b f ≠ j := fun h => none ⟨f, h⟩
  have hz := away .zero
  have hn := away .subtract
  have hh := away .halfCarry
  have hc := away .carry
  have := flagPos_facts b
  simp only [pos] at hz hn hh hc
  omega

theorem fhi_eq_of_flags {s t : State} (hb : t.flagPos = s.flagPos) (h : ∀ f, flag f t = flag f s) :
    t.fhi = s.fhi := by
  apply BitVec.eq_of_getLsbD_eq
  intro j hj
  obtain ⟨f, hf⟩ := exists_flag_at s.flagPos (j := 4 + j) (by omega) (by omega)
  have bit := h f
  rw [flag, flag, hb, hf] at bit
  have high : ∀ (x : BitVec 4) (i : Fin 4), isBitSet (x ++ 0#4) (4 + i) = x.getLsbD i := by decide
  exact (high t.fhi ⟨j, hj⟩).symm.trans (bit.trans (high s.fhi ⟨j, hj⟩))

/-- So what a write of F does to a state follows from the flags it leaves. -/
theorem writeF_eq_of_flags {v v' : Byte} {s s' : State} (hb : s'.flagPos = s.flagPos)
    (h : ∀ f, flag f (writeF v' s') = flag f (writeF v s)) (u : State) : writeF v' u = writeF v u := by
  have high : v'.extractLsb' 4 4 = v.extractLsb' 4 4 := fhi_eq_of_flags (t := writeF v' s') (s := writeF v s) hb h
  rw [writeF, writeF, high]

/-! ### A command kept in step with itself -/

/-- Both commands answer a next state, related by `R`, and drive the same q. -/
def Agree (R : State → State → Prop) (r r' : Result) : Prop :=
  ∃ t t', r = .next t ∧ r' = .next t' ∧ R t t' ∧ t'.q = t.q

/-- The state operations keep `R`, as long as no 16-bit holder outside `ok` is read or written. F is compared flag by
flag, so the two states need not have one binding. -/
structure KeptByOps (R : State → State → Prop) (ok : Reg16 → Prop) : Prop where
  reg8 : ∀ {s s'}, R s s' → ∀ r, readReg8 r s' = readReg8 r s
  reg16 : ∀ {s s'}, R s s' → ∀ r, ok r → readReg16 r s' = readReg16 r s
  flags : ∀ {s s'}, R s s' → ∀ f, flag f s' = flag f s
  writeReg8 : ∀ {s s'}, R s s' → ∀ r v, R (writeReg8 r v s) (writeReg8 r v s')
  writeReg16 : ∀ {s s'}, R s s' → ∀ r, ok r → ∀ v, R (writeReg16 r v s) (writeReg16 r v s')
  writeF : ∀ {s s'}, R s s' → ∀ v v', (∀ f, flag f (writeF v' s') = flag f (writeF v s)) →
    R (writeF v s) (writeF v' s')
  driveQ : ∀ {s s'}, R s s' → ∀ q, R (driveQ q s) (driveQ q s')

/-- The 16-bit holders that a command names. -/
def named16 : Instr → List Reg16
  | .inc16 rd | .dec16 rd | .add16Imm rd _ | .rd16 rd | .wr16 rd _ => [rd]
  | .add16Reg rd rs => [rd, rs]
  | _ => []

theorem mem_named16_pc {i : Instr} : .pc ∈ named16 i ↔ namesPc i = true := by
  cases i <;> simp [named16, namesPc, writesPc, eq_comm (a := Reg16.pc)]

namespace KeptByOps
variable {R : State → State → Prop} {ok : Reg16 → Prop} {s s' : State}

theorem agree_finish (K : KeptByOps R ok) (h : R s s') : Agree R (finish s) (finish s') :=
  ⟨_, _, rfl, rfl, K.driveQ h none, rfl⟩

theorem agree_finishWith (K : KeptByOps R ok) (h : R s s') {v v' : Word} (hv : v' = v) :
    Agree R (finishWith v s) (finishWith v' s') :=
  ⟨_, _, rfl, rfl, hv ▸ K.driveQ h (some v), hv ▸ rfl⟩

theorem kept_writeFlag (K : KeptByOps R ok) (h : R s s') (f : Flag) (x : Bool) :
    R (writeFlag f x s) (writeFlag f x s') := by
  refine K.writeF h _ _ fun g => ?_
  show flag g (writeFlag f x s') = flag g (writeFlag f x s)
  by_cases hg : g = f
  · simp [hg]
  · simp [flag_writeFlag_of_ne hg, K.flags h]

theorem agree_finishAlu8 (K : KeptByOps R ok) (h : R s s') (rd : Reg8) {out out' : Alu8Out} (ho : out' = out) :
    Agree R (finishAlu8 rd out s) (finishAlu8 rd out' s') := by
  subst ho
  refine K.agree_finish (K.writeF (K.writeReg8 h rd _) _ _ fun f => ?_)
  simp [isBitSet_flags]

theorem agree_finish_writeReg16 (K : KeptByOps R ok) (h : R s s') {rd : Reg16} (hrd : ok rd) {v v' : Word}
    (hv : v' = v) : Agree R (finish (Machine.writeReg16 rd v s)) (finish (Machine.writeReg16 rd v' s')) := by
  subst hv
  exact K.agree_finish (K.writeReg16 h rd hrd _)

theorem agree_add16 (K : KeptByOps R ok) (h : R s s') {rd : Reg16} (hrd : ok rd) {x x' y y' : Word} (hx : x' = x)
    (hy : y' = y) : Agree R (add16 rd x y s) (add16 rd x' y' s') := by
  subst hx hy
  exact K.agree_finish (K.kept_writeFlag (K.kept_writeFlag (K.kept_writeFlag (K.writeReg16 h rd hrd _) _ _) _ _) _ _)

theorem agree_exec_wrf (K : KeptByOps R ok) (h : R s s') {v v' : Byte}
    (hv : ∀ f, v'.getLsbD (pos s'.flagPos f) = v.getLsbD (pos s.flagPos f)) :
    Agree R (exec (.wrf v) s) (exec (.wrf v') s') := by
  refine K.agree_finish (K.writeF h _ _ fun f => ?_)
  simp only [flag_writeF, isBitSet_and_F0 _ (pos_ge _ f) (pos_lt _ f)]
  exact hv f

/-- Every command keeps the relation, but for the two that carry F as a byte. -/
theorem agree_exec (K : KeptByOps R ok) (h : R s s') {i : Instr} (hok : ∀ r ∈ named16 i, ok r)
    (hw : ∀ v, i ≠ .wrf v) (hr : i ≠ .rdf) : Agree R (exec i s) (exec i s') := by
  have reg8 := K.reg8 h
  have carry := K.flags h .carry
  cases i
  case raise => exact K.agree_finish (K.writeF h _ _ fun g => by simp only [flag_writeF_setBit, K.flags h])
  case clear => exact K.agree_finish (K.writeF h _ _ fun g => by simp only [flag_writeF_clearBit, K.flags h])
  case toggle => exact K.agree_finish (K.writeF h _ _ fun g => by simp only [flag_writeF_toggleBit, K.flags h])
  case resetAll => exact K.agree_finish (K.writeF h _ _ fun g => by simp [isBitSet])
  case check => exact K.agree_finishWith h (by rw [K.flags h])
  case inc8 | dec8 => exact K.agree_finishAlu8 h _ (by rw [reg8, carry])
  case add8Reg | add8Imm | sub8Reg | sub8Imm => exact K.agree_finishAlu8 h _ (by simp only [operand8, reg8])
  case adc8Reg | adc8Imm | sbc8Reg | sbc8Imm =>
    exact K.agree_finishAlu8 h _ (by simp only [operand8, reg8, carryIn, carry])
  case inc16 rd | dec16 rd =>
    have hrd : ok rd := hok rd (.head _)
    exact K.agree_finish_writeReg16 h hrd (by rw [K.reg16 h rd hrd])
  case add16Reg rd rs =>
    have hrd : ok rd := hok rd (.head _)
    exact K.agree_add16 h hrd (K.reg16 h rd hrd) (K.reg16 h rs (hok rs (.tail _ (.head _))))
  case add16Imm rd _ =>
    have hrd : ok rd := hok rd (.head _)
    exact K.agree_add16 h hrd (K.reg16 h rd hrd) rfl
  case rd8 => exact K.agree_finishWith h (by rw [reg8])
  case wr8 => exact K.agree_finish (K.writeReg8 h _ _)
  case rd16 rd => exact K.agree_finishWith h (K.reg16 h rd (hok rd (.head _)))
  case wr16 rd _ => exact K.agree_finish_writeReg16 h (hok rd (.head _)) rfl
  case rdf => exact absurd rfl hr
  case wrf v => exact absurd rfl (hw v)

/-- When F is the same byte in both states and stands for the same flags, every command keeps the relation. -/
theorem agree_exec_of_sameF (K : KeptByOps R ok) (h : R s s') (hF : readF s' = readF s) (hb : s'.flagPos = s.flagPos)
    {i : Instr} (hok : ∀ r ∈ named16 i, ok r) : Agree R (exec i s) (exec i s') := by
  obtain rfl | hr := eq_or_ne i .rdf
  · exact K.agree_finishWith h (by rw [hF])
  · by_cases hw : ∃ v, i = .wrf v
    · obtain ⟨v, rfl⟩ := hw
      exact K.agree_exec_wrf h fun f => by rw [hb]
    · exact K.agree_exec h hok (fun v hv => hw ⟨v, hv⟩) hr

end KeptByOps

/-! ### Agreement by name (R27) -/

theorem sameByName_driveQ {s s' : State} (h : SameByName s s') (q q' : Option Word) :
    SameByName (driveQ q s) (driveQ q' s') := by
  obtain ⟨reg8, reg16, flags, control⟩ := h
  exact ⟨fun r => by simpa using reg8 r, fun r => by simpa using reg16 r, flags, control⟩

theorem sameByName_kept : KeptByOps SameByName (fun _ => True) where
  reg8 := fun ⟨reg8, _⟩ => reg8
  reg16 := fun ⟨_, reg16, _⟩ r _ => reg16 r
  flags := fun ⟨_, _, flags, _⟩ => flags
  writeReg8 := by
    rintro s s' ⟨reg8, reg16, flags, control⟩ r v
    refine ⟨fun r' => ?_, fun r' => by simpa using reg16 r', fun f => by simpa using flags f,
      by simpa using control⟩
    by_cases hr : r' = r
    · simp [hr]
    · simpa only [readReg8_writeReg8_of_ne hr] using reg8 r'
  writeReg16 := by
    rintro s s' ⟨reg8, reg16, flags, control⟩ r - v
    refine ⟨fun r' => by simpa using reg8 r', fun r' => ?_, fun f => by simpa using flags f,
      by simpa using control⟩
    by_cases hr : r' = r
    · simp [hr]
    · simpa only [readReg16_writeReg16_of_ne hr] using reg16 r'
  writeF := by
    rintro s s' ⟨reg8, reg16, -, control⟩ v v' flags
    exact ⟨fun r => by simpa using reg8 r, fun r => by simpa using reg16 r, flags, control⟩
  driveQ h q := sameByName_driveQ h q q

theorem getLsbD_setWidth_readF (f : Flag) (s : State) :
    ((readF s).setWidth 16).getLsbD (pos s.flagPos f) = flag f s := by
  have := pos_lt s.flagPos f
  rw [BitVec.getLsbD_setWidth, decide_eq_true (by omega), Bool.true_and]
  rfl

/-- Settles O55: agreement by name is kept by the state operations, so by the commands; RDF hands out a byte whose bit
at a flag's position is that flag, under each binding. -/
theorem commandsDependOnFlagsByNameOnly : Obligations.CommandsDependOnFlagsByNameOnly := by
  intro s s' h
  have K := sameByName_kept
  refine ⟨fun i hw hr => K.agree_exec h (fun _ _ => trivial) hw hr, fun v v' hv => K.agree_exec_wrf h hv, ?_⟩
  refine ⟨_, _, _, _, rfl, rfl, sameByName_driveQ h _ _, rfl, rfl, fun f => ?_⟩
  rw [getLsbD_setWidth_readF, getLsbD_setWidth_readF, K.flags h]

/-! ### Agreement but for q (R32) -/

/-- The states are the same with q taken away. -/
abbrev SameButQ (s s' : State) : Prop := driveQ none s' = driveQ none s

theorem sameButQ_kept : KeptByOps SameButQ (fun _ => True) where
  reg8 h r := by simpa using congrArg (readReg8 r) h
  reg16 h r _ := by simpa using congrArg (readReg16 r) h
  flags h f := by simpa using congrArg (flag f) h
  writeReg8 h r v := by rw [SameButQ, driveQ_writeReg8, driveQ_writeReg8, h]
  writeReg16 h r _ v := by rw [SameButQ, driveQ_writeReg16, driveQ_writeReg16, h]
  writeF h v v' flags := by
    have hb := congrArg State.flagPos h
    exact (writeF_eq_of_flags hb flags _).trans (congrArg (writeF v) h)
  driveQ h q := h

theorem eq_of_sameButQ {s s' : State} (h : SameButQ s s') (hq : s'.q = s.q) : s' = s := by
  calc s' = driveQ s'.q (driveQ none s') := rfl
    _ = driveQ s.q (driveQ none s) := by rw [h, hq]
    _ = s := rfl

theorem exec_driveQ (i : Instr) (q : Option Word) (s : State) : exec i (driveQ q s) = exec i s := by
  have same : SameButQ s (driveQ q s) := rfl
  obtain ⟨t, t', e, e', same', hq⟩ := sameButQ_kept.agree_exec_of_sameF same rfl rfl (i := i) fun _ _ => trivial
  rw [e, e', eq_of_sameButQ same' hq]

theorem runCommand_driveQ (w : CmdWord) (q : Option Word) (s : State) :
    runCommand w (driveQ q s) = runCommand w s := by
  cases hd : decode w with
  | ok i => rw [runCommand_ok hd, runCommand_ok hd, exec_driveQ]
  | error c =>
    rw [runCommand_error hd, runCommand_error hd]
    rfl

theorem step_driveQ (q : Option Word) (s : State) : step (driveQ q s) = step s := by
  have taken : step (driveQ q s) = onSample (nextSample s) (driveQ q (takeSample s)) := rfl
  rw [taken, step, onSample, onSample, runCommand_driveQ]
  rfl

/-- Settles O20: what is driven is part of every command's frame, and neither a command nor a step tells apart two
states that agree but for q. -/
theorem resultIsDrivenOnlyByReadingCommands : Obligations.ResultIsDrivenOnlyByReadingCommands :=
  ⟨fun _ _ _ h => (exec_next_frame h).q, fun _ _ _ _ _ hs hr _ hd h => (step_of_decode_error hs hr hd h).1,
    fun i s q => exec_driveQ i q s, fun s q => step_driveQ q s⟩

/-! ### Difference in PC alone (R25) -/

/-- The states differ in PC alone. -/
abbrev SameButPc (v : Word) (s s' : State) : Prop := s' = writeReg16 .pc v s

theorem sameButPc_kept (v : Word) : KeptByOps (SameButPc v) (· ≠ .pc) where
  reg8 := by
    rintro s _ rfl r
    simp
  reg16 := by
    rintro s _ rfl r hr
    exact readReg16_writeReg16_of_ne hr v s
  flags := by
    rintro s _ rfl f
    simp
  writeReg8 := by
    rintro s _ rfl r x
    exact (writeReg16_writeReg8 ..).symm
  writeReg16 := by
    rintro s _ rfl r hr x
    exact (writeReg16_pc_comm hr ..).symm
  writeF := by
    rintro s _ rfl x x' flags
    exact writeF_eq_of_flags (writeReg16_flagPos ..) flags _
  driveQ := by
    rintro s _ rfl q
    exact driveQ_writeReg16 ..

theorem exec_writePc {i : Instr} {s t : State} (h : exec i s = .next t) (hn : namesPc i = false) (v : Word) :
    exec i (writeReg16 .pc v s) = .next (writeReg16 .pc v t) := by
  have unnamed : ∀ r ∈ named16 i, r ≠ .pc := by
    rintro r hr rfl
    exact Bool.noConfusion (hn.symm.trans (mem_named16_pc.mp hr))
  obtain ⟨u, t', e, e', same, -⟩ := (sameButPc_kept v).agree_exec_of_sameF (s := s) rfl (readF_writeReg16 ..)
    (writeReg16_flagPos ..) unnamed
  cases h.symm.trans e
  rw [e', same]

theorem nextSample_writePc (v : Word) (s : State) : nextSample (writeReg16 .pc v s) = nextSample s := rfl

theorem takeSample_writePc (v : Word) (s : State) :
    takeSample (writeReg16 .pc v s) = writeReg16 .pc v (takeSample s) := rfl

theorem runsNext_writePc {v : Word} {s : State} {i : Instr} : RunsNext (writeReg16 .pc v s) i ↔ RunsNext s i := .rfl

/-- A step that is no reset and runs no command naming PC is the same step whatever PC holds. -/
theorem step_writePc {s t : State} (h : step s = .next t) (hr : (nextSample s).rst = false)
    (hn : ∀ i, RunsNext s i → namesPc i = false) (v : Word) :
    step (writeReg16 .pc v s) = .next (writeReg16 .pc v t) := by
  obtain ⟨hr', -⟩ | ⟨-, hidle | hfault, e⟩ | ⟨-, hv, hf, ⟨i, hd, e⟩ | ⟨c, hd, e⟩⟩ := step_cases s
  · exact Bool.noConfusion (hr.symm.trans hr')
  · cases h.symm.trans e
    exact step_idle (s := writeReg16 .pc v s) hr hidle
  · cases h.symm.trans e
    exact step_stuck (s := writeReg16 .pc v s) hr hfault
  · have runs : RunsNext s i := ⟨hr, hv, hf, hd⟩
    rw [step_runsNext (runsNext_writePc.mpr runs), takeSample_writePc]
    exact exec_writePc (e.symm.trans h) (hn i runs) v
  · cases h.symm.trans e
    exact (step_command (s := writeReg16 .pc v s) hr hv hf).trans (runCommand_error hd _)

theorem step_keeps_pc {s t : State} (h : step s = .next t) (hr : (nextSample s).rst = false)
    (hn : ∀ i, RunsNext s i → writesPc i = false) : readReg16 .pc t = readReg16 .pc s := by
  obtain ⟨hr', -⟩ | ⟨-, -, e⟩ | ⟨-, hv, hf, ⟨i, hd, e⟩ | ⟨c, -, e⟩⟩ := step_cases s
  · exact Bool.noConfusion (hr.symm.trans hr')
  · cases h.symm.trans e
    rfl
  · exact (exec_next_frame (e.symm.trans h)).pc (hn i ⟨hr, hv, hf, hd⟩)
  · cases h.symm.trans e
    rfl

theorem exec_inc16_toNat (rd : Reg16) (s : State) : ∃ t, exec (.inc16 rd) s = .next t ∧
    (readReg16 rd t).toNat = ((readReg16 rd s).toNat + 1) % 65536 := by
  refine ⟨_, rfl, ?_⟩
  have := toNat_trunc16 ((readReg16 rd s).toNat + 1)
  rw [readReg16_driveQ, readReg16_writeReg16]
  omega

/-- Settles O23: commands that name no PC keep two states in step that differ in PC alone, a step takes its sample
without a look at PC, and PC is written by the commands that name it as their destination only. -/
theorem programCounterIsAPlainHolder : Obligations.ProgramCounterIsAPlainHolder := by
  refine ⟨fun s v => ⟨nextSample_writePc v s, fun i => runsNext_writePc⟩, fun i s t v h hn => exec_writePc h hn v,
    fun s t v h hr hn => step_writePc h hr hn v, fun i s t h => (exec_next_frame h).pc,
    fun s t h hr hn => step_keeps_pc h hr hn, fun s => ?_, fun v s => ⟨_, rfl, rfl⟩⟩
  obtain ⟨t, ht, next⟩ := exec_inc16_toNat .pc s
  refine ⟨t, ht, next, fun top => ?_⟩
  rw [top] at next
  exact BitVec.eq_of_toNat_eq next

end Sys2Proof.Machine

/-! PROOFS. Runs in program order (20_memory.md R56): what a step does with the sample it takes does not depend on the
samples behind it, so a run over one list of samples can be cut at any place. -/

namespace Sys2Proof.Machine

/-! ### The samples to come -/

/-- The state with `ps` as the samples the dispatcher has still to present. -/
def withInputs (ps : List PortSample) (s : State) : State := { s with inputs := ps }

/-! ### Difference in the samples to come alone -/

/-- The states differ in the samples to come alone. -/
abbrev SameButInputs (ps : List PortSample) (s s' : State) : Prop := s' = withInputs ps s

theorem sameButInputs_kept (ps : List PortSample) : KeptByOps (SameButInputs ps) (fun _ => True) where
  reg8 := by
    rintro s _ rfl r
    exact readReg8_congr rfl r
  reg16 := by
    rintro s _ rfl r -
    exact readReg16_congr rfl r
  flags := by
    rintro s _ rfl f
    rfl
  writeReg8 := by
    rintro s _ rfl r v
    cases r <;> rfl
  writeReg16 := by
    rintro s _ rfl r - v
    cases r <;> rfl
  writeF := by
    rintro s _ rfl v v' flags
    exact writeF_eq_of_flags rfl flags _
  driveQ := by
    rintro s _ rfl q
    rfl

/-! ### No look ahead -/

/-- A command's outcome is one state, whatever samples are still to come. -/
theorem exec_withInputs (i : Instr) (s : State) :
    ∃ t, ∀ ps, exec i (withInputs ps s) = .next (withInputs ps t) := by
  obtain ⟨t, ht, -⟩ := exec_frame i s
  refine ⟨t, fun ps => ?_⟩
  obtain ⟨u, t', hu, ht', same, -⟩ := (sameButInputs_kept ps).agree_exec_of_sameF (s := s) rfl rfl rfl (i := i)
    fun _ _ => trivial
  cases ht.symm.trans hu
  rw [ht', same]

/-- A step's outcome is one state, whatever samples are behind the one it takes. -/
theorem step_withInputs_cons (p : PortSample) (s : State) :
    ∃ t, ∀ ps, step (withInputs (p :: ps) s) = .next (withInputs ps t) := by
  obtain ⟨hr, -⟩ | ⟨hr, hquiet, -⟩ | ⟨hr, hv, hf, ⟨i, hd, -⟩ | ⟨c, hd, -⟩⟩ := step_cases (withInputs [p] s)
  · exact ⟨resetBlock s, fun ps => step_reset (s := withInputs (p :: ps) s) hr⟩
  · refine ⟨driveQ none s, fun ps => ?_⟩
    obtain hidle | hfault := hquiet
    · exact step_idle (s := withInputs (p :: ps) s) hr hidle
    · exact step_stuck (s := withInputs (p :: ps) s) hr hfault
  · obtain ⟨t, ht⟩ := exec_withInputs i s
    refine ⟨t, fun ps => ?_⟩
    exact (step_command (s := withInputs (p :: ps) s) hr hv hf).trans ((runCommand_ok hd _).trans (ht ps))
  · refine ⟨driveQ none (latchFault c s), fun ps => ?_⟩
    exact (step_command (s := withInputs (p :: ps) s) hr hv hf).trans (runCommand_error hd _)

/-! ### Runs -/

/-- The steps over `xs` lead to one state, whatever samples `ys` are behind them and however long the run goes on. -/
theorem run_withInputs_append (xs : List PortSample) (s : State) :
    ∃ t, ∀ (n : Nat) (ys : List PortSample),
      core.run (xs.length + n) (withInputs (xs ++ ys) s) = core.run n (withInputs ys t) := by
  induction xs generalizing s with
  | nil => exact ⟨s, fun n ys => by rw [List.length_nil, Nat.zero_add, List.nil_append]⟩
  | cons p xs ih =>
    obtain ⟨u, hu⟩ := step_withInputs_cons p s
    obtain ⟨t, ht⟩ := ih u
    refine ⟨t, fun n ys => ?_⟩
    rw [List.length_cons, Nat.add_right_comm, List.cons_append, run_succ_of_next (hu (xs ++ ys)), ht]

/-- Settles O19: the state that the steps over xs lead to, with no sample to come, is where the run over xs ends, and
it is the start of the rest of the run over xs then ys. -/
theorem runsComposeInProgramOrder : Obligations.RunsComposeInProgramOrder := by
  intro xs ys s
  obtain ⟨t, ht⟩ := run_withInputs_append xs s
  refine ⟨withInputs [] t, ?_, rfl, ht ys.length ys⟩
  have alone := ht 0 []
  rwa [List.append_nil, Nat.add_zero, run_zero] at alone

end Sys2Proof.Machine

/-! PROOFS. The decoder, the encoder and the opcode table: a row of the table is its op and m fields with the
must-be-zero bits of its format (30_encoding.md R72, R73), and a word whose form is correct either is the word of the
command it decodes to or has a selector that names no holder (R78). -/

namespace Sys2Proof

/-! ### A row of the table by fields -/

/-- The bits of the op and m fields. -/
abbrev keyMask : CmdWord := 0xF8800000

/-- The op and m fields of a row's pattern. -/
def Row.key (r : Row) : BitVec 5 × Bool := (opField r.pattern, mField r.pattern)

theorem and_keyMask (w : CmdWord) : w &&& keyMask = enc (opField w) 0 (mField w) 0 0 := by
  rw [enc_eq_append]
  apply BitVec.eq_of_getLsbD_eq
  intro i hi
  simp only [opField, mField, BitVec.getLsbD_and, BitVec.getLsbD_append, BitVec.getLsbD_extractLsb']
  interval_cases i <;> simp

theorem and_keyMask_eq_iff {w v : CmdWord} :
    w &&& keyMask = v &&& keyMask ↔ opField w = opField v ∧ mField w = mField v := by
  rw [and_keyMask, and_keyMask]
  refine ⟨fun h => ⟨?_, ?_⟩, fun ⟨op, m⟩ => by rw [op, m]⟩
  · simpa using congrArg opField h
  · simpa using congrArg mField h

/-- A row's mask is the op and m fields and the must-be-zero bits of its format, and its pattern has no other bits
than those of the op and m fields. -/
theorem row_mask_pattern : ∀ r ∈ opcodeRows, r.mask = keyMask ||| r.format.mbz ∧
    r.pattern &&& keyMask = r.pattern ∧ r.pattern &&& r.format.mbz = 0 := by
  decide

theorem and_or_and (w k z : CmdWord) : w &&& (k ||| z) &&& k = w &&& k := by
  ext i
  simp only [BitVec.getElem_and, BitVec.getElem_or]
  cases k[i] <;> simp

theorem and_or_eq_iff {w k z p : CmdWord} (hk : p &&& k = p) (hz : p &&& z = 0) :
    w &&& (k ||| z) = p ↔ w &&& k = p &&& k ∧ w &&& z = 0 := by
  constructor
  · rintro rfl
    rw [← hz, and_or_and, BitVec.or_comm, and_or_and]
    exact ⟨rfl, rfl⟩
  · rintro ⟨inK, inZ⟩
    rw [BitVec.and_or_distrib_left, inK, inZ, hk]
    exact BitVec.or_zero

theorem isInstance_iff {r : Row} (hr : r ∈ opcodeRows) {w : CmdWord} :
    r.isInstance w = true ↔ r.key = (opField w, mField w) ∧ w &&& r.format.mbz = 0 := by
  obtain ⟨hmask, hk, hz⟩ := row_mask_pattern r hr
  rw [Row.isInstance, beq_iff_eq, hmask, and_or_eq_iff hk hz, and_keyMask_eq_iff, Row.key, Prod.mk.injEq,
    eq_comm (a := opField w), eq_comm (a := mField w)]

/-! ### The table against the decoder's own tables -/

/-- Two rows differ in the op field or in m (R78). -/
theorem row_keys_nodup : (opcodeRows.map Row.key).Nodup := by decide

/-- The decoder has each row's format for the row's op and m. -/
theorem format?_of_row : ∀ r ∈ opcodeRows, (opcode? r.key.1).bind (·.format? r.key.2) = some r.format := by
  decide

/-- Each form of the decoder is a row of the table. -/
theorem exists_row {c : BitVec 5} {m : Bool} {op : Op} {fmt : Format} (ho : opcode? c = some op)
    (hf : op.format? m = some fmt) : ∃ r ∈ opcodeRows, r.key = (c, m) ∧ r.format = fmt := by
  have table : ∀ (c : BitVec 5) (m : Bool), ∀ op, opcode? c = some op → ∀ fmt, op.format? m = some fmt →
      ∃ r ∈ opcodeRows, r.key = (c, m) ∧ r.format = fmt := by decide
  exact table c m op ho fmt hf

theorem format_of_row {r : Row} (hr : r ∈ opcodeRows) {c : BitVec 5} {m : Bool} {op : Op} {fmt : Format}
    (ho : opcode? c = some op) (hf : op.format? m = some fmt) (key : r.key = (c, m)) : r.format = fmt := by
  simpa [key, ho, hf] using (format?_of_row r hr).symm

theorem shiftRight_op_eq_iff {w v : CmdWord} : w >>> 27 = v >>> 27 ↔ opField w = opField v := by
  have top (x : CmdWord) : x >>> 27 = (opField x).setWidth 32 := by
    rw [BitVec.ushiftRight_eq_extractLsb'_of_lt (by decide), BitVec.setWidth_eq_append (by decide)]
    rfl
  refine ⟨fun h => ?_, fun h => by rw [top, top, h]⟩
  rw [top, top] at h
  simpa using congrArg (BitVec.setWidth 5) h

/-- Check 1 is the decoder's step 1 (R78). -/
theorem opAssigned_eq_isSome (w : CmdWord) : opAssigned w = (opcode? (opField w)).isSome := by
  have table : ∀ c, (opcodeRows.any fun r => decide (c = opField r.pattern)) = (opcode? c).isSome := by decide
  rw [← table, opAssigned]
  refine congrArg opcodeRows.any (funext fun r => ?_)
  rw [← decide_eq_decide.mpr shiftRight_op_eq_iff]
  rfl

/-- The op codes that check 1 refuses are those that R84 lists. -/
theorem opAssigned_eq_false_iff (w : CmdWord) : opAssigned w = false ↔ opField w ∈
    [0x00#5, 0x06#5, 0x07#5, 0x0E#5, 0x0F#5, 0x13#5, 0x14#5, 0x15#5, 0x16#5, 0x17#5, 0x1E#5, 0x1F#5] := by
  rw [opAssigned_eq_isSome]
  generalize opField w = c
  revert c
  decide

/-- Check 2 is the decoder's step 2 (R78). -/
theorem formCorrect_iff {w : CmdWord} : formCorrect w = true ↔
    ∃ op fmt, opcode? (opField w) = some op ∧ op.format? (mField w) = some fmt ∧ w &&& fmt.mbz = 0 := by
  rw [formCorrect, List.any_eq_true]
  constructor
  · rintro ⟨r, hr, inst⟩
    obtain ⟨key, hz⟩ := (isInstance_iff hr).mp inst
    have form := format?_of_row r hr
    rw [key] at form
    obtain ⟨op, ho, hf⟩ := Option.bind_eq_some_iff.mp form
    exact ⟨op, r.format, ho, hf, hz⟩
  · rintro ⟨op, fmt, ho, hf, hz⟩
    obtain ⟨r, hr, key, rfl⟩ := exists_row ho hf
    exact ⟨r, hr, (isInstance_iff hr).mpr ⟨key, hz⟩⟩

/-- Check 3 is about the selectors of the one format the word has. -/
theorem selectorsNamed_of_form {w : CmdWord} {op : Op} {fmt : Format} (ho : opcode? (opField w) = some op)
    (hf : op.format? (mField w) = some fmt) (hz : w &&& fmt.mbz = 0) :
    selectorsNamed w = fmt.selectorsNamed w := by
  rw [Bool.eq_iff_iff, selectorsNamed, List.all_eq_true]
  constructor
  · intro all
    obtain ⟨r, hr, key, rfl⟩ := exists_row ho hf
    simpa [(isInstance_iff hr).mpr ⟨key, hz⟩] using all r hr
  · intro named r hr
    cases inst : r.isInstance w
    case false => rfl
    case true =>
      obtain ⟨key, -⟩ := (isInstance_iff hr).mp inst
      rw [format_of_row hr ho hf key]
      exact named

/-! ### A word of correct form is its format's fields -/

/-- The word with the op and m fields of `w`, those operand fields of `w` that the format has (R72), and no other
bit. -/
def Format.word (w : CmdWord) : Format → CmdWord
  | .n => enc (opField w) 0 (mField w) 0 0
  | .fl => enc (opField w) ((flagField w).setWidth 3) (mField w) 0 0
  | .r1 | .w1 => enc (opField w) (rdField w) (mField w) 0 0
  | .r2 | .w2 => enc (opField w) (rdField w) (mField w) (rsField w) 0
  | .ri => enc (opField w) (rdField w) (mField w) 0 ((imm8Field w).setWidth 16)
  | .wi => enc (opField w) (rdField w) (mField w) 0 (imm16Field w)
  | .fi => enc (opField w) 0 (mField w) 0 ((imm8Field w).setWidth 16)

/-- A field whose high part is zero is its low part. -/
theorem extract_eq_setWidth {w : CmdWord} {start n k : Nat} (h : w.extractLsb' (start + n) k = 0) :
    w.extractLsb' start (k + n) = (w.extractLsb' start n).setWidth (k + n) := by
  rw [← BitVec.extractLsb'_append_extractLsb'_eq_extractLsb' rfl, h, BitVec.setWidth_eq_append (by omega)]
  ext i hi
  simp [BitVec.getElem_append]

/-- With its must-be-zero bits zero, a word is its format's fields and nothing else (R72). -/
theorem Format.word_eq_self {fmt : Format} {w : CmdWord} (hz : w &&& fmt.mbz = 0) : fmt.word w = w := by
  refine Eq.trans ?_ (eq_enc_of_fields (extract_eq_zero_of_mbz hz (by cases fmt <;> decide))).symm
  have rd (h : fmt.mbz.extractLsb' 24 3 = .allOnes 3) : rdField w = 0 := extract_eq_zero_of_mbz hz h
  have rdFlag (h : fmt.mbz.extractLsb' 26 1 = .allOnes 1) : rdField w = (flagField w).setWidth 3 :=
    extract_eq_setWidth (n := 2) (k := 1) (extract_eq_zero_of_mbz hz h)
  have rs (h : fmt.mbz.extractLsb' 20 3 = .allOnes 3) : rsField w = 0 := extract_eq_zero_of_mbz hz h
  have imm (h : fmt.mbz.extractLsb' 0 16 = .allOnes 16) : imm16Field w = 0 := extract_eq_zero_of_mbz hz h
  have immByte (h : fmt.mbz.extractLsb' 8 8 = .allOnes 8) : imm16Field w = (imm8Field w).setWidth 16 :=
    extract_eq_setWidth (n := 8) (k := 8) (extract_eq_zero_of_mbz hz h)
  cases fmt
  case n => rw [word, rd (by decide), rs (by decide), imm (by decide)]
  case fl => rw [word, rdFlag (by decide), rs (by decide), imm (by decide)]
  case r1 | w1 => rw [word, rs (by decide), imm (by decide)]
  case r2 | w2 => rw [word, imm (by decide)]
  case ri => rw [word, rs (by decide), immByte (by decide)]
  case wi => rw [word, rs (by decide)]
  case fi => rw [word, rd (by decide), rs (by decide), immByte (by decide)]

/-! ### What the decoder answers to a word of correct form -/

/-- The right answer to the word `w`, given whether its selectors name holders (R78 steps 3 and 4): a command whose
word is `w`, or the cause IllegalSelector. -/
def Answers (w : CmdWord) : Bool → Except FaultCause Instr → Prop
  | true, r => ∃ i, r = .ok i ∧ encode i = w
  | false, r => r = .error .illegalSelector

theorem encode_of_answers {w : CmdWord} {named : Bool} {i : Instr} (h : Answers w named (.ok i)) :
    encode i = w := by
  cases named
  case false => cases h
  case true =>
    obtain ⟨j, e, word⟩ := h
    cases e
    exact word

theorem rd_selector (w : CmdWord) : (w >>> 24 &&& 7).toNat = (rdField w).toNat := by
  simpa [rdField, BitVec.extractLsb'_toNat] using Nat.and_two_pow_sub_one_eq_mod _ 3

theorem rs_selector (w : CmdWord) : (w >>> 20 &&& 7).toNat = (rsField w).toNat := by
  simpa [rsField, BitVec.extractLsb'_toNat] using Nat.and_two_pow_sub_one_eq_mod _ 3

theorem decide_lt_seven (c : BitVec 3) : decide (c.toNat < 7) = (reg8? c).isSome := by
  revert c
  decide

theorem decide_lt_five (c : BitVec 3) : decide (c.toNat < 5) = (reg16? c).isSome := by
  revert c
  decide

/-! By definition the check of format `ri` is that of `r1`, and the check of `wi` that of `w1`. -/

theorem selectorsNamed_r1 (w : CmdWord) : Format.r1.selectorsNamed w = (reg8? (rdField w)).isSome := by
  rw [← decide_lt_seven, ← rd_selector]
  rfl

theorem selectorsNamed_r2 (w : CmdWord) :
    Format.r2.selectorsNamed w = ((reg8? (rdField w)).isSome && (reg8? (rsField w)).isSome) := by
  rw [← decide_lt_seven, ← decide_lt_seven, ← rd_selector, ← rs_selector]
  rfl

theorem selectorsNamed_w1 (w : CmdWord) : Format.w1.selectorsNamed w = (reg16? (rdField w)).isSome := by
  rw [← decide_lt_five, ← rd_selector]
  rfl

theorem selectorsNamed_w2 (w : CmdWord) :
    Format.w2.selectorsNamed w = ((reg16? (rdField w)).isSome && (reg16? (rsField w)).isSome) := by
  rw [← decide_lt_five, ← decide_lt_five, ← rd_selector, ← rs_selector]
  rfl

section
variable {w x : CmdWord}

theorem withR8_answers {k : Reg8 → Instr} (word : ∀ rd, rd.code = rdField w → encode (k rd) = x) :
    Answers x (Format.r1.selectorsNamed w) (withR8 w k) := by
  rw [selectorsNamed_r1, withR8]
  cases hd : reg8? (rdField w)
  case none => rfl
  case some rd => exact ⟨_, rfl, word rd (code_of_reg8? hd)⟩

theorem withR8R8_answers {k : Reg8 → Reg8 → Instr}
    (word : ∀ rd rs, rd.code = rdField w → rs.code = rsField w → encode (k rd rs) = x) :
    Answers x (Format.r2.selectorsNamed w) (withR8R8 w k) := by
  rw [selectorsNamed_r2, withR8R8]
  cases hd : reg8? (rdField w)
  case none => rfl
  case some rd =>
    cases hs : reg8? (rsField w)
    case none => rfl
    case some rs => exact ⟨_, rfl, word rd rs (code_of_reg8? hd) (code_of_reg8? hs)⟩

theorem withR16_answers {k : Reg16 → Instr} (word : ∀ rd, rd.code = rdField w → encode (k rd) = x) :
    Answers x (Format.w1.selectorsNamed w) (withR16 w k) := by
  rw [selectorsNamed_w1, withR16]
  cases hd : reg16? (rdField w)
  case none => rfl
  case some rd => exact ⟨_, rfl, word rd (code_of_reg16? hd)⟩

theorem withR16R16_answers {k : Reg16 → Reg16 → Instr}
    (word : ∀ rd rs, rd.code = rdField w → rs.code = rsField w → encode (k rd rs) = x) :
    Answers x (Format.w2.selectorsNamed w) (withR16R16 w k) := by
  rw [selectorsNamed_w2, withR16R16]
  cases hd : reg16? (rdField w)
  case none => rfl
  case some rd =>
    cases hs : reg16? (rsField w)
    case none => rfl
    case some rs => exact ⟨_, rfl, word rd rs (code_of_reg16? hd) (code_of_reg16? hs)⟩

end

theorem code_flagOfId (c : BitVec 2) : (flagOfId c).code = c.setWidth 3 := by
  revert c
  decide

/-- Steps 3 and 4 of R78, over the forms of the table. -/
theorem operands_answers {w : CmdWord} {op : Op} {fmt : Format} (ho : op.code = opField w)
    (hf : op.format? (mField w) = some fmt) :
    Answers (fmt.word w) (fmt.selectorsNamed w) (op.operands w) := by
  cases hm : mField w <;> rw [hm] at hf <;> cases op <;> cases hf
  case false.raise | false.clear | false.toggle | false.check =>
    exact ⟨_, rfl, by rw [Format.word, ← ho, hm, ← code_flagOfId]; rfl⟩
  case false.resetAll | false.rdf | true.wrf =>
    exact ⟨_, rfl, by rw [Format.word, ← ho, hm]; rfl⟩
  case false.inc8 | false.dec8 | false.rd8 | true.wr8 =>
    exact withR8_answers fun rd hd => by rw [Format.word, ← ho, hm, ← hd]; rfl
  case false.add8 | false.adc8 | false.sub8 | false.sbc8 =>
    rw [Op.operands, withSrc8, hm]
    exact withR8R8_answers fun rd rs hd hs => by rw [Format.word, ← ho, hm, ← hd, ← hs]; rfl
  case true.add8 | true.adc8 | true.sub8 | true.sbc8 =>
    rw [Op.operands, withSrc8, hm]
    exact withR8_answers fun rd hd => by rw [Format.word, ← ho, hm, ← hd]; rfl
  case false.inc16 | false.dec16 | false.rd16 | true.wr16 =>
    exact withR16_answers fun rd hd => by rw [Format.word, ← ho, hm, ← hd]; rfl
  case false.add16 =>
    rw [Op.operands, hm]
    exact withR16R16_answers fun rd rs hd hs => by rw [Format.word, ← ho, hm, ← hd, ← hs]; rfl
  case true.add16 =>
    rw [Op.operands, hm]
    exact withR16_answers fun rd hd => by rw [Format.word, ← ho, hm, ← hd]; rfl

theorem decode_answers {w : CmdWord} {op : Op} {fmt : Format} (ho : opcode? (opField w) = some op)
    (hf : op.format? (mField w) = some fmt) (hz : w &&& fmt.mbz = 0) :
    Answers w (fmt.selectorsNamed w) (decode w) := by
  have answers := operands_answers (code_of_opcode? ho) hf
  rwa [Format.word_eq_self hz, ← decode_form ho hf hz] at answers

/-! ### The round trips -/

theorem encode_of_decode {w : CmdWord} {i : Instr} (h : decode w = .ok i) : encode i = w := by
  obtain ⟨op, fmt, ho, hf, hz, -⟩ := decode_eq_ok h
  have answers := decode_answers ho hf hz
  rw [h] at answers
  exact encode_of_answers answers

/-- Settles O2: a word that decodes has a correct form, so it is the fields its format has and nothing else, and these
are the fields of its command. -/
theorem encodeOfDecodeIsTheWord : Obligations.EncodeOfDecodeIsTheWord := fun _ _ => encode_of_decode

/-- The operation of a command. -/
def Instr.op : Instr → Op
  | .raise _ => .raise
  | .clear _ => .clear
  | .toggle _ => .toggle
  | .check _ => .check
  | .resetAll => .resetAll
  | .inc8 _ => .inc8
  | .dec8 _ => .dec8
  | .add8Reg _ _ | .add8Imm _ _ => .add8
  | .adc8Reg _ _ | .adc8Imm _ _ => .adc8
  | .sub8Reg _ _ | .sub8Imm _ _ => .sub8
  | .sbc8Reg _ _ | .sbc8Imm _ _ => .sbc8
  | .inc16 _ => .inc16
  | .dec16 _ => .dec16
  | .add16Reg _ _ | .add16Imm _ _ => .add16
  | .rd8 _ => .rd8
  | .wr8 _ _ => .wr8
  | .rd16 _ => .rd16
  | .wr16 _ _ => .wr16
  | .rdf => .rdf
  | .wrf _ => .wrf

theorem opField_encode (i : Instr) : opField (encode i) = i.op.code := by cases i <;> exact opField_enc ..

theorem row_mem_opcodeRows (i : Instr) : i.row ∈ opcodeRows := by
  cases i <;> simp [opcodeRows, rowSamples, Instr.row]

theorem encode_isInstance (i : Instr) : i.row.isInstance (encode i) = true :=
  match i with
  | .raise f => Laws.RowMatch.raise f
  | .clear f => Laws.RowMatch.clear f
  | .toggle f => Laws.RowMatch.toggle f
  | .check f => Laws.RowMatch.check f
  | .resetAll => Laws.RowMatch.resetAll
  | .inc8 rd => Laws.RowMatch.inc8 rd
  | .dec8 rd => Laws.RowMatch.dec8 rd
  | .add8Reg rd rs => Laws.RowMatch.add8Reg rd rs
  | .add8Imm rd v => Laws.RowMatch.add8Imm rd v
  | .adc8Reg rd rs => Laws.RowMatch.adc8Reg rd rs
  | .adc8Imm rd v => Laws.RowMatch.adc8Imm rd v
  | .sub8Reg rd rs => Laws.RowMatch.sub8Reg rd rs
  | .sub8Imm rd v => Laws.RowMatch.sub8Imm rd v
  | .sbc8Reg rd rs => Laws.RowMatch.sbc8Reg rd rs
  | .sbc8Imm rd v => Laws.RowMatch.sbc8Imm rd v
  | .inc16 rd => Laws.RowMatch.inc16 rd
  | .dec16 rd => Laws.RowMatch.dec16 rd
  | .add16Reg rd rs => Laws.RowMatch.add16Reg rd rs
  | .add16Imm rd v => Laws.RowMatch.add16Imm rd v
  | .rd8 rd => Laws.RowMatch.rd8 rd
  | .wr8 rd v => Laws.RowMatch.wr8 rd v
  | .rd16 rd => Laws.RowMatch.rd16 rd
  | .wr16 rd v => Laws.RowMatch.wr16 rd v
  | .rdf => Laws.RowMatch.rdf
  | .wrf v => Laws.RowMatch.wrf v

/-- The operand fields of a command's word name its operands. -/
theorem operands_encode (i : Instr) : i.op.operands (encode i) = .ok i := by
  cases i <;> simp [Instr.op, Op.operands, encode, withR8, withR8R8, withR16, withR16R16, withSrc8]

theorem decode_encode (i : Instr) : decode (encode i) = .ok i := by
  obtain ⟨key, hz⟩ := (isInstance_iff (row_mem_opcodeRows i)).mp (encode_isInstance i)
  have ho : opcode? (opField (encode i)) = some i.op := by rw [opField_encode, opcode?_code]
  have hf := format?_of_row i.row (row_mem_opcodeRows i)
  rw [key, ho, Option.bind_some] at hf
  rw [decode_form ho hf hz, operands_encode]

/-- Settles O1: the word matches its command's row, so the decoder gets to the row's operation, and the operand fields
name the operands. -/
theorem decodeOfEncodeIsTheCommand : Obligations.DecodeOfEncodeIsTheCommand := decode_encode

/-- Settles O5: the encoder is run on the fifteen commands, and the decoder undoes it. -/
theorem workedEncodingsDecodeAndEncode : Obligations.WorkedEncodingsDecodeAndEncode := by
  refine ⟨fun _ _ _ _ _ => rfl, fun p hp => ?_⟩
  have word : encode p.2 = p.1 := by
    revert p
    decide
  exact ⟨word ▸ decode_encode p.2, word⟩

/-! ### The decoder against the table -/

/-- Settles O4: the rows that a word matches all have its op and m fields, which no two rows share; a word that decodes
is the encoding of its command, which matches the command's row. -/
theorem noWordIsAnInstanceOfTwoRows : Obligations.NoWordIsAnInstanceOfTwoRows := by
  refine ⟨fun w => ?_, fun w i h => ⟨row_mem_opcodeRows i, ?_⟩⟩
  · have distinct : ((opcodeRows.filter (·.isInstance w)).map Row.key).Nodup :=
      row_keys_nodup.sublist (List.filter_sublist.map Row.key)
    have same : (opcodeRows.filter (·.isInstance w)).map Row.key ⊆ [(opField w, mField w)] := by
      intro k hk
      obtain ⟨r, hr, rfl⟩ := List.mem_map.mp hk
      obtain ⟨mem, inst⟩ := List.mem_filter.mp hr
      exact List.mem_singleton.mpr ((isInstance_iff mem).mp inst).1
    simpa using (List.subperm_of_subset distinct same).length_le
  · rw [← encode_of_decode h]
    exact encode_isInstance i

/-- All that the decoder answers, by the three checks on the table, in the order of R225. -/
theorem decode_cases (w : CmdWord) :
    (opAssigned w = false ∧ decode w = .error .illegalOp) ∨
    (opAssigned w = true ∧ formCorrect w = false ∧ decode w = .error .illegalForm) ∨
    (opAssigned w = true ∧ formCorrect w = true ∧ Answers w (selectorsNamed w) (decode w)) := by
  rw [opAssigned_eq_isSome]
  cases ho : opcode? (opField w)
  case none => exact .inl ⟨rfl, decode_illegalOp ho⟩
  case some op =>
    refine .inr ?_
    cases form : formCorrect w
    case true =>
      obtain ⟨op, fmt, ho, hf, hz⟩ := formCorrect_iff.mp form
      rw [selectorsNamed_of_form ho hf hz]
      exact .inr ⟨rfl, rfl, decode_answers ho hf hz⟩
    case false =>
      refine .inl ⟨rfl, rfl, ?_⟩
      cases hf : op.format? (mField w)
      case none => exact decode_noForm ho hf
      case some fmt =>
        refine decode_mbz ho hf fun hz => ?_
        rw [formCorrect_iff.mpr ⟨op, fmt, ho, hf, hz⟩] at form
        cases form

/-- In each of the decoder's cases the three checks have one outcome, and the outcomes exclude each other. -/
theorem decode_agrees_with_checks (w : CmdWord) :
    (decode w = .error .illegalOp ↔ opAssigned w = false) ∧
    (decode w = .error .illegalForm ↔ opAssigned w = true ∧ formCorrect w = false) ∧
    (decode w = .error .illegalSelector ↔
      opAssigned w = true ∧ formCorrect w = true ∧ selectorsNamed w = false) ∧
    ((∃ i, decode w = .ok i) ↔ wellFormedWord w = true) := by
  rw [wellFormedWord]
  obtain ⟨op, d⟩ | ⟨op, form, d⟩ | ⟨op, form, answers⟩ := decode_cases w
  · simp [op, d]
  · simp [op, form, d]
  · cases sel : selectorsNamed w <;> rw [sel] at answers
    case false =>
      have d : decode w = .error .illegalSelector := answers
      simp [op, form, d]
    case true =>
      obtain ⟨i, d, -⟩ := answers
      simp [op, form, d]

/-- Settles O3: the checks agree with the decoder step by step, check 1 over all 32 op codes. -/
theorem decoderAgreesWithTheOpcodeTable : Obligations.DecoderAgreesWithTheOpcodeTable := by
  intro w
  obtain ⟨illegalOp, illegalForm, illegalSelector, legal⟩ := decode_agrees_with_checks w
  exact ⟨illegalOp, illegalForm, illegalSelector, legal, opAssigned_eq_false_iff w⟩

end Sys2Proof

/-! PROOFS. The words of a command's rule, for any op: the word that the rule prints, and the words with the op and m
of the command that fault (30_encoding.md R72, R78). -/

namespace Sys2Proof
open Sys2Proof.Claim

theorem decode_of_encode_eq {i : Instr} {w : CmdWord} (word : encode i = w) : decode w = .ok i :=
  word ▸ decode_encode i

/-- The word of a format whose only operand is in the `rd` field (R72: R1, W1 and FL). -/
theorem enc_rd_only (op : BitVec 5) (rd : BitVec 3) : enc op rd false 0 0 = op.setWidth 32 <<< 27 ||| inRd rd := by
  simp [enc]

theorem noForm_of_format? {c : BitVec 5} {m : Bool} {op : Op} (ho : opcode? c = some op)
    (hf : op.format? m = none) : NoForm c m := by
  rintro w rfl rfl
  exact decode_noForm ho hf

theorem formFaults_of_format? {c : BitVec 5} {m : Bool} {op : Op} {fmt : Format} {bad : CmdWord → Prop}
    (ho : opcode? c = some op) (hf : op.format? m = some fmt)
    (selectors : ∀ w, mField w = m → bad w → op.operands w = .error .illegalSelector) :
    FormFaults c m fmt.mbz bad := by
  rintro w rfl rfl
  exact ⟨decode_mbz ho hf, fun hz hbad => (decode_form ho hf hz).trans (selectors w rfl hbad)⟩

/-- A format without selectors faults at its must-be-zero bits only. -/
theorem formFaults_of_noSelector {c : BitVec 5} {m : Bool} {op : Op} {fmt : Format} (ho : opcode? c = some op)
    (hf : op.format? m = some fmt) : FormFaults c m fmt.mbz (fun _ => False) :=
  formFaults_of_format? ho hf fun _ _ => False.elim

end Sys2Proof

/-! PROOFS. The bit primitives and the flag commands (40_flag_register.md R100 to R112). The flags after a command
come from its row of the table of R29 (`exec_obeysRule`), and q from its frame (`exec_frame`). -/

namespace Sys2Proof.Machine
open Sys2Proof.Claim

/-! ### The bit primitives -/

theorem getBitValue_eq_ite (v : Byte) (p : Nat) : getBitValue v p = if isBitSet v p then 1 else 0 := by
  rw [getBitValue]
  cases isBitSet v p <;> rfl

theorem toggleBit_toggleBit (v : Byte) (p : Nat) : toggleBit (toggleBit v p) p = v := by
  rw [toggleBit, toggleBit, BitVec.xor_assoc, BitVec.xor_self, BitVec.xor_zero]

/-- Settles O26: each clause is the law of its primitive, bit by bit. -/
theorem bitPrimitivesActOnOneBit : Obligations.BitPrimitivesActOnOneBit := fun v p _ =>
  ⟨rfl, rfl, rfl, isBitSet_setBit v p, isBitSet_clearBit v p, isBitSet_toggleBit v p, .rfl, getBitValue_eq_ite v p⟩

/-! ### The effect of a flag command -/

/-- A command whose row rules one flag keeps the others. -/
theorem exec_sameFlagsBut {i : Instr} {f : Flag} {r : FlagRule} {s t : State}
    (rule : flagRule s.flagPos i = onlyFlag f r) (h : exec i s = .next t) : SameFlagsBut f s t := by
  intro g hg
  have obeys := exec_obeysRule h g
  rwa [rule, onlyFlag, if_neg hg] at obeys

theorem exec_obeysOwnRule {i : Instr} {f : Flag} {r : FlagRule} {s t : State}
    (rule : flagRule s.flagPos i = onlyFlag f r) (h : exec i s = .next t) : ObeysRule f s t r := by
  have obeys := exec_obeysRule h f
  rwa [rule, onlyFlag, if_pos rfl] at obeys

theorem onlyF_driveQ_writeF (v : Byte) (s : State) : OnlyF s (driveQ none (writeF v s)) :=
  ⟨fun r => by simp, fun r => by simp, ⟨rfl, rfl, rfl, rfl, rfl⟩, rfl⟩

/-- The effect that RAISE, CLEAR and TOGGLE share: F becomes the byte `v`, in which flag `f` follows its rule and the
other flags are kept, and nothing else changes. -/
theorem exec_flagCommand {i : Instr} {f : Flag} {r : FlagRule} {v : Byte} {s : State}
    (rule : flagRule s.flagPos i = onlyFlag f r) (write : exec i s = finish (writeF v s))
    (byte : readF (writeF v s) = v) :
    ∃ t, exec i s = .next t ∧ readF t = v ∧ ObeysRule f s t r ∧ SameFlagsBut f s t ∧ LowNibbleZero t ∧ OnlyF s t :=
  ⟨_, write, byte, exec_obeysOwnRule rule write, exec_sameFlagsBut rule write, readF_lowNibble _,
    onlyF_driveQ_writeF v s⟩

theorem exec_toggle (f : Flag) (s : State) :
    ∃ t, exec (.toggle f) s = .next t ∧ readF t = toggleBit (readF s) (pos s.flagPos f) ∧
      flag f t = (!flag f s) ∧ SameFlagsBut f s t ∧ LowNibbleZero t ∧ OnlyF s t :=
  exec_flagCommand (r := .inverted) rfl rfl (readF_writeF_toggleBit f s)

/-- CHECK answers on q the value the flag has (R109). -/
theorem exec_check_of_flag {f : Flag} {x : Bool} {s : State} (h : flag f s = x) :
    ∃ u, exec (.check f) s = .next u ∧ u.q = some (if x then 1 else 0) := by
  obtain ⟨u, hu, frame⟩ := exec_frame (.check f) s
  subst h
  exact ⟨u, hu, frame.q⟩

/-! ### Each command against the whole of its rule -/

/-- Settles O29: the flags by RAISE's row of the table, the byte by reading back the written one. -/
theorem raiseSetsItsFlagOnly : Obligations.RaiseSetsItsFlagOnly :=
  ⟨fun _ => decode_of_encode_eq (enc_rd_only ..), noForm_of_format? (op := .raise) rfl rfl,
    formFaults_of_noSelector (op := .raise) (fmt := .fl) rfl rfl,
    fun f s => exec_flagCommand (r := .written true) rfl rfl (readF_writeF_setBit f s)⟩

/-- Settles O30: the flags by CLEAR's row of the table, the byte by reading back the written one. -/
theorem clearClearsItsFlagOnly : Obligations.ClearClearsItsFlagOnly :=
  ⟨fun _ => decode_of_encode_eq (enc_rd_only ..), noForm_of_format? (op := .clear) rfl rfl,
    formFaults_of_noSelector (op := .clear) (fmt := .fl) rfl rfl,
    fun f s => exec_flagCommand (r := .written false) rfl rfl (readF_writeF_clearBit f s)⟩

/-- Settles O31: the flags by TOGGLE's row of the table, the byte by reading back the written one; the second TOGGLE
inverts the same bit again, since no command moves the flag's position. -/
theorem toggleInvertsItsFlagOnly : Obligations.ToggleInvertsItsFlagOnly := by
  refine ⟨fun _ => decode_of_encode_eq (enc_rd_only ..), noForm_of_format? (op := .toggle) rfl rfl,
    formFaults_of_noSelector (op := .toggle) (fmt := .fl) rfl rfl, fun f s => ?_⟩
  obtain ⟨t, ht, byte, own, others, low, frame⟩ := exec_toggle f s
  obtain ⟨u, hu, byteAgain, -⟩ := exec_toggle f t
  refine ⟨t, ht, byte, own, others, low, frame, u, hu, ?_⟩
  rw [byteAgain, byte, exec_flagPos ht, toggleBit_toggleBit]

/-- Settles O32: q by the frame of CHECK, which writes nothing else. -/
theorem checkReportsItsFlag : Obligations.CheckReportsItsFlag := by
  refine ⟨fun _ => decode_of_encode_eq (enc_rd_only ..), noForm_of_format? (op := .check) rfl rfl,
    formFaults_of_noSelector (op := .check) (fmt := .fl) rfl rfl, fun f s => ?_⟩
  refine ⟨_, rfl, (exec_next_frame (i := .check f) rfl).q, ⟨fun r => ?_, fun r => ?_, rfl, rfl, rfl⟩,
    rfl, rfl, rfl, rfl, rfl⟩
  · exact readReg8_driveQ ..
  · exact readReg16_driveQ ..

/-- Settles O33: the zero byte is read back as it is, and RESETALL's row of the table writes every flag to 0. -/
theorem resetAllZeroesF : Obligations.ResetAllZeroesF :=
  ⟨decode_of_encode_eq (i := .resetAll) rfl, noForm_of_format? (op := .resetAll) rfl rfl,
    formFaults_of_noSelector (op := .resetAll) (fmt := .n) rfl rfl,
    fun s => ⟨_, rfl, readF_writeF 0 s, exec_obeysRule (i := .resetAll) rfl, onlyF_driveQ_writeF 0 s⟩⟩

/-! ### The commands together -/

/-- Settles O24: each command's row of the table says what flag f is after it, and CHECK answers that value. -/
theorem checkSeesTheFlagCommands : Obligations.CheckSeesTheFlagCommands := by
  refine ⟨fun f g i s t hi h hg => ?_, fun f s t h => ?_, fun f s t h => ?_, fun f s t u h hu => ?_,
    fun f s t h => ?_⟩
  · simp only [List.mem_cons, List.not_mem_nil, or_false] at hi
    obtain rfl | rfl | rfl | rfl := hi
    · exact exec_sameFlagsBut rfl h g hg
    · exact exec_sameFlagsBut rfl h g hg
    · exact exec_sameFlagsBut rfl h g hg
    · exact exec_obeysRule h g
  · exact exec_check_of_flag (exec_obeysOwnRule (r := .written true) rfl h)
  · exact exec_check_of_flag (exec_obeysOwnRule (r := .written false) rfl h)
  · obtain ⟨v, hv, after⟩ := exec_check_of_flag (exec_obeysOwnRule (r := .inverted) rfl h)
    have before : u.q = some (if flag f s then 1 else 0) := (exec_next_frame hu).q
    refine ⟨v, hv, ?_⟩
    cases hx : flag f s <;> rw [hx] at before after
    · exact .inl ⟨before, after⟩
    · exact .inr ⟨before, after⟩
  · exact exec_check_of_flag (exec_obeysRule h f)

end Sys2Proof.Machine

/-! PROOFS. The detector (41_half_carry_detector.md). The gate forms of R137 all say one thing: bit i of x ^ y ^ r,
where r is the sum or the difference of x and y, is the carry or the borrow out of the bits below i. At the top bit of
a widened operand x and y are 0 there, and the form is r's own bit. -/

namespace Sys2Proof.Machine

/-! ### The carry and the borrow out of the low bits, at any width -/

theorem getLsbD_xor_xor_add {n i : Nat} (hi : i < n) (x y : BitVec n) (c : Bool) :
    (x ^^^ y ^^^ (x + y + (BitVec.ofBool c).setWidth n)).getLsbD i = BitVec.carry i x y c := by
  rw [BitVec.getLsbD_xor, BitVec.getLsbD_xor, BitVec.getLsbD_add_add_bool hi, ← Bool.xor_assoc (x.getLsbD i),
    ← Bool.xor_assoc, Bool.xor_self, Bool.false_xor]

/-- A wrapped sum of two residues and a carry-in is below one of them with its carry-in just when it wrapped. -/
theorem add_mod_lt_iff {m d b c : Nat} (hd : d < m) (hb : b < m) (hc : c ≤ 1) :
    (d + b + c) % m < b + c ↔ m ≤ d + b + c := by
  obtain small | wrapped := Nat.lt_or_ge (d + b + c) m
  · rw [Nat.mod_eq_of_lt small]
    omega
  · rw [Nat.mod_eq_sub_mod wrapped, Nat.mod_eq_of_lt (by omega)]
    omega

theorem toNat_add_add_bool_mod {n i : Nat} (hi : i < n) (x y : BitVec n) (c : Bool) :
    (x + y + (BitVec.ofBool c).setWidth n).toNat % 2 ^ i = (x.toNat % 2 ^ i + y.toNat % 2 ^ i + c.toNat) % 2 ^ i := by
  have dvd : 2 ^ i ∣ 2 ^ n := Nat.pow_dvd_pow 2 hi.le
  simp [BitVec.toNat_add, Nat.mod_mod_of_dvd _ dvd, Nat.add_mod]

/-- The minuend is the difference plus what was taken off, and it borrows just where that sum carries. -/
theorem getLsbD_xor_xor_sub {n i : Nat} (hi : i < n) (x y : BitVec n) (c : Bool) :
    (x ^^^ y ^^^ (x - y - (BitVec.ofBool c).setWidth n)).getLsbD i =
      decide (x.toNat % 2 ^ i < y.toNat % 2 ^ i + c.toNat) := by
  generalize hd : x - y - (BitVec.ofBool c).setWidth n = d
  obtain rfl : x = d + y + (BitVec.ofBool c).setWidth n := by
    rw [← hd, BitVec.add_assoc, BitVec.add_comm y, ← BitVec.add_assoc, BitVec.sub_add_cancel, BitVec.sub_add_cancel]
  have pos : 0 < 2 ^ i := Nat.two_pow_pos i
  rw [BitVec.xor_comm, BitVec.xor_comm _ y, ← BitVec.xor_assoc, getLsbD_xor_xor_add hi, BitVec.carry,
    toNat_add_add_bool_mod hi]
  exact decide_eq_decide.mpr (add_mod_lt_iff (Nat.mod_lt _ pos) (Nat.mod_lt _ pos) (Bool.toNat_le c)).symm

/-! ### The gate forms, on operands widened by one bit -/

section
variable {n i : Nat} (x y : BitVec n) (c : Bool)

theorem gate_add_eq_carry (hi : i ≤ n) :
    (x.setWidth (n + 1) ^^^ y.setWidth (n + 1) ^^^
      (x.setWidth (n + 1) + y.setWidth (n + 1) + (BitVec.ofBool c).setWidth (n + 1))).getLsbD i =
      BitVec.carry i x y c := by
  rw [getLsbD_xor_xor_add (Nat.lt_succ_of_le hi), BitVec.carry, BitVec.toNat_setWidth_of_le n.le_succ,
    BitVec.toNat_setWidth_of_le n.le_succ, BitVec.carry]

theorem gate_sub_eq_borrow (hi : i ≤ n) :
    (x.setWidth (n + 1) ^^^ y.setWidth (n + 1) ^^^
      (x.setWidth (n + 1) - y.setWidth (n + 1) - (BitVec.ofBool c).setWidth (n + 1))).getLsbD i =
      decide (x.toNat % 2 ^ i < y.toNat % 2 ^ i + c.toNat) := by
  rw [getLsbD_xor_xor_sub (Nat.lt_succ_of_le hi), BitVec.toNat_setWidth_of_le n.le_succ,
    BitVec.toNat_setWidth_of_le n.le_succ]

/-- At the bit above the operands the gate form is the result's own bit. -/
theorem gate_top (r : BitVec (n + 1)) :
    (x.setWidth (n + 1) ^^^ y.setWidth (n + 1) ^^^ r).getLsbD n = r.getLsbD n := by
  simp

end

/-! ### The detector's tests as carries -/

theorem hcAdd_eq_carry (a b : Byte) (cin : Bool) : hcAdd a b cin = BitVec.carry 4 a b cin := rfl

theorem hcAdd16_eq_carry (x y : Word) : hcAdd16 x y = BitVec.carry 12 x y false := rfl

theorem cyAdd8_eq_carry (a b : Byte) (cin : Bool) : cyAdd8 a b cin = BitVec.carry 8 a b cin := by
  rw [BitVec.carry, BitVec.toNat_mod_cancel, BitVec.toNat_mod_cancel]
  rfl

theorem cyAdd16_eq_carry (x y : Word) : cyAdd16 x y = BitVec.carry 16 x y false := by
  rw [BitVec.carry, BitVec.toNat_mod_cancel, BitVec.toNat_mod_cancel]
  rfl

theorem bwSub8_eq_borrow (a b : Byte) (cin : Bool) :
    bwSub8 a b cin = decide (a.toNat % 2 ^ 8 < b.toNat % 2 ^ 8 + cin.toNat) := by
  rw [BitVec.toNat_mod_cancel, BitVec.toNat_mod_cancel, bwSub8]

/-- Settles O27: each gate form is the carry or the borrow out of the bits below it, with carry-in 0 for words. -/
theorem detectorEqualsItsGateForms : Obligations.DetectorEqualsItsGateForms := by
  refine ⟨fun a b cin => ⟨?_, ?_, ?_, ?_⟩, fun x y => ?_⟩
  · exact (gate_add_eq_carry a b cin (i := 4) (by decide)).symm
  · exact (gate_sub_eq_borrow a b cin (i := 4) (by decide)).symm
  · rw [cyAdd8_eq_carry, ← gate_add_eq_carry a b cin le_rfl, gate_top]
  · rw [bwSub8_eq_borrow, ← gate_sub_eq_borrow a b cin le_rfl, gate_top]
  · intro x17 y17 sum
    have noCarryIn : sum = x17 + y17 + (BitVec.ofBool false).setWidth 17 := (BitVec.add_zero _).symm
    constructor
    · rw [hcAdd16_eq_carry, noCarryIn, gate_add_eq_carry x y false (by decide)]
    · rw [cyAdd16_eq_carry, noCarryIn, ← gate_add_eq_carry x y false le_rfl, gate_top]

/-! ### Increment and decrement -/

theorem hcAdd_one (old : Byte) : hcAdd old 0x01 false = decide (old.toNat % 16 = 15) := by
  refine decide_eq_decide.mpr ?_
  change old.toNat % 16 + 1 + 0 > 15 ↔ _
  omega

theorem hbSub_one (old : Byte) : hbSub old 0x01 false = decide (old.toNat % 16 = 0) := by
  refine decide_eq_decide.mpr ?_
  change old.toNat % 16 < 1 + 0 ↔ _
  omega

/-- Settles O28: the test on the new value is the HalfCarry of INC8 or DEC8, and the low nibble becomes 0 from 15
alone and 15 from 0 alone. -/
theorem incrementDetectorsHaveThreeForms : Obligations.IncrementDetectorsHaveThreeForms := by
  intro old
  have inc : hcInc (trunc8 ((old.toNat : Int) + 1)) = decide ((old.toNat + 1) % 256 % 16 = 0) :=
    increment8_h old false
  have dec : hbDec (trunc8 ((old.toNat : Int) - 1)) = decide ((old.toNat + 255) % 256 % 16 = 15) :=
    decrement8_h old false
  have incOld : (old.toNat + 1) % 256 % 16 = 0 ↔ old.toNat % 16 = 15 := by omega
  have decOld : (old.toNat + 255) % 256 % 16 = 15 ↔ old.toNat % 16 = 0 := by omega
  rw [hcAdd_one, hbSub_one, inc, dec]
  exact ⟨⟨rfl, decide_eq_decide.mpr incOld, decide_eq_decide.mpr incOld⟩,
    rfl, decide_eq_decide.mpr decOld, decide_eq_decide.mpr decOld⟩

end Sys2Proof.Machine

/-! PROOFS. The words of the commands that name 8-bit holders (30_encoding.md R72: R1, R2 and RI), for any op. -/

namespace Sys2Proof
open Sys2Proof.Claim

/-- The word of format R2: two holders. -/
theorem enc_rd_rs (op : BitVec 5) (rd rs : BitVec 3) :
    enc op rd false rs 0 = op.setWidth 32 <<< 27 ||| inRd rd ||| inRs rs := by
  simp [enc]

/-- The word of format RI: a holder and a byte, with m = 1. -/
theorem enc_rd_imm8 (op : BitVec 5) (rd : BitVec 3) (v : Byte) :
    enc op rd true 0 (v.setWidth 16) = op.setWidth 32 <<< 27 ||| 0x00800000 ||| inRd rd ||| v.setWidth 32 := by
  rw [BitVec.or_assoc (op.setWidth 32 <<< 27), BitVec.or_comm 0x00800000, ← BitVec.or_assoc]
  simp [enc]

theorem formFaults_withR8 {c : BitVec 5} {m : Bool} {op : Op} {fmt : Format} {k : CmdWord → Reg8 → Instr}
    (ho : opcode? c = some op) (hf : op.format? m = some fmt)
    (operands : ∀ w, mField w = m → op.operands w = withR8 w (k w)) :
    FormFaults c m fmt.mbz (fun w => rdBits w = 7) :=
  formFaults_of_format? ho hf fun w hm bad => (operands w hm).trans (withR8_bad bad _)

theorem formFaults_withR8R8 {c : BitVec 5} {m : Bool} {op : Op} {fmt : Format} {k : Reg8 → Reg8 → Instr}
    (ho : opcode? c = some op) (hf : op.format? m = some fmt)
    (operands : ∀ w, mField w = m → op.operands w = withR8R8 w k) :
    FormFaults c m fmt.mbz (fun w => rdBits w = 7 ∨ rsBits w = 7) :=
  formFaults_of_format? ho hf fun w hm bad => (operands w hm).trans (withR8R8_bad bad _)

/-! ### The two forms of an 8-bit operation: m selects (R74) -/

section
variable {c : BitVec 5} {op : Op} {reg : Reg8 → Reg8 → Instr} {imm : Reg8 → Byte → Instr}

theorem formFaults_src8_reg (ho : opcode? c = some op) (hf : op.format? false = some .r2)
    (operands : ∀ w, op.operands w = withSrc8 w reg imm) :
    FormFaults c false 0x000FFFFF (fun w => rdBits w = 7 ∨ rsBits w = 7) :=
  formFaults_withR8R8 ho hf fun w hm => by rw [operands, withSrc8, hm, if_neg Bool.false_ne_true]

theorem formFaults_src8_imm (ho : opcode? c = some op) (hf : op.format? true = some .ri)
    (operands : ∀ w, op.operands w = withSrc8 w reg imm) :
    FormFaults c true 0x007FFF00 (fun w => rdBits w = 7) :=
  formFaults_withR8 ho hf fun w hm => by rw [operands, withSrc8, hm, if_pos rfl]

end

end Sys2Proof

/-! PROOFS. The 8-bit ALU (42_alu8.md R151 to R160). Every command of it is `finishAlu8` of its operation, in either
form, so its effect is what the operation gives, and two commands in a row are one operation on the value of the
other. -/

namespace Sys2Proof.Machine
open Sys2Proof.Claim

/-! ### A command as the operation it finishes -/

theorem finishAlu8_effect (rd : Reg8) (out : Alu8Out) (s : State) :
    ∃ t, finishAlu8 rd out s = .next t ∧ Alu8Effect rd s t out.value.toNat out.z out.n out.h out.c := by
  obtain ⟨t, ht, value, ⟨z, n, h, c⟩, frame⟩ := finishAlu8_spec rd out s
  exact ⟨t, ht, congrArg BitVec.toNat value, z, n, h, c, readF_lowNibble t, frame⟩

/-- The effect of a command whose operation is known by its numbers. -/
theorem exec_alu8Effect {i : Instr} {rd : Reg8} {out : Alu8Out} {s : State} {value : Nat} {z n h c : Bool}
    (run : exec i s = finishAlu8 rd out s) (hv : out.value.toNat = value) (hz : out.z = z) (hn : out.n = n)
    (hh : out.h = h) (hc : out.c = c) : ∃ t, exec i s = .next t ∧ Alu8Effect rd s t value z n h c := by
  subst hv hz hn hh hc
  exact run ▸ finishAlu8_effect rd out s

/-- The two forms of an operation `alu` differ in where the second operand comes from, and in nothing else (R74). -/
theorem exec_form8 {reg : Reg8 → Reg8 → Instr} {imm : Reg8 → Byte → Instr} {i : Instr} {rd : Reg8} {v : Byte}
    {s : State} (alu : Byte → Alu8Out)
    (hreg : ∀ rs, exec (reg rd rs) s = finishAlu8 rd (alu (readReg8 rs s)) s)
    (himm : exec (imm rd v) s = finishAlu8 rd (alu v) s) (form : Form8 reg imm i rd v s) :
    exec i s = finishAlu8 rd (alu v) s := by
  obtain ⟨rs, rfl, rfl⟩ | rfl := form
  · exact hreg rs
  · exact himm

section
variable {i : Instr} {rd : Reg8} {v : Byte} {s : State}

theorem exec_add8 (form : Form8 .add8Reg .add8Imm i rd v s) :
    exec i s = finishAlu8 rd (add8 (readReg8 rd s) v) s :=
  exec_form8 (add8 (readReg8 rd s)) (fun _ => rfl) rfl form

theorem exec_adc8 (form : Form8 .adc8Reg .adc8Imm i rd v s) :
    exec i s = finishAlu8 rd (adc8 (readReg8 rd s) v (flag .carry s)) s :=
  exec_form8 (adc8 (readReg8 rd s) · (flag .carry s)) (fun _ => rfl) rfl form

theorem exec_sub8 (form : Form8 .sub8Reg .sub8Imm i rd v s) :
    exec i s = finishAlu8 rd (sub8 (readReg8 rd s) v) s :=
  exec_form8 (sub8 (readReg8 rd s)) (fun _ => rfl) rfl form

theorem exec_sbc8 (form : Form8 .sbc8Reg .sbc8Imm i rd v s) :
    exec i s = finishAlu8 rd (sbc8 (readReg8 rd s) v (flag .carry s)) s :=
  exec_form8 (sbc8 (readReg8 rd s) · (flag .carry s)) (fun _ => rfl) rfl form

end

/-! ### The tests of ADC8 with the addends in the rule's order (R154) -/

/-- The carry-in as the number the rules write. -/
theorem toNat_carryIn_eq_ite (c : Bool) : c.toNat = if c then 1 else 0 := Bool.cond_eq_ite ..

theorem adc8_h (a b : Byte) (cin : Bool) :
    (adc8 a b cin).h = decide (cin.toNat + b.toNat % 16 + a.toNat % 16 > 0xF) := by
  rw [Nat.add_comm, Nat.add_comm cin.toNat, ← Nat.add_assoc]
  rfl

theorem adc8_c (a b : Byte) (cin : Bool) : (adc8 a b cin).c = decide (a.toNat + cin.toNat + b.toNat > 0xFF) := by
  rw [Nat.add_right_comm]
  rfl

/-! ### Each command against the whole of its rule -/

/-- Settles O34: the flags of INC8 are those of `increment8`, which is given the old Carry to keep. -/
theorem inc8AddsOneAndKeepsCarry : Obligations.Inc8AddsOneAndKeepsCarry :=
  ⟨fun _ => decode_of_encode_eq (enc_rd_only ..), noForm_of_format? (op := .inc8) rfl rfl,
    formFaults_withR8 (op := .inc8) (fmt := .r1) (k := fun _ => .inc8) rfl rfl fun _ _ => rfl,
    fun _ _ => exec_alu8Effect rfl (increment8_value ..) (increment8_z ..) rfl (increment8_h ..) rfl⟩

/-- Settles O35: the flags of DEC8 are those of `decrement8`, which is given the old Carry to keep. -/
theorem dec8SubtractsOneAndKeepsCarry : Obligations.Dec8SubtractsOneAndKeepsCarry :=
  ⟨fun _ => decode_of_encode_eq (enc_rd_only ..), noForm_of_format? (op := .dec8) rfl rfl,
    formFaults_withR8 (op := .dec8) (fmt := .r1) (k := fun _ => .dec8) rfl rfl fun _ _ => rfl,
    fun _ _ => exec_alu8Effect rfl (decrement8_value ..) (decrement8_z ..) rfl (decrement8_h ..) rfl⟩

/-- Settles O36: both forms finish `add8`, whose two tests have carry-in 0. -/
theorem add8AddsAndSetsFourFlags : Obligations.Add8AddsAndSetsFourFlags :=
  ⟨fun _ _ => decode_of_encode_eq (enc_rd_rs ..), fun _ _ => decode_of_encode_eq (enc_rd_imm8 ..),
    formFaults_src8_reg (op := .add8) rfl rfl fun _ => rfl, formFaults_src8_imm (op := .add8) rfl rfl fun _ => rfl,
    fun _ _ _ _ form => exec_alu8Effect (exec_add8 form) (add8_value ..) (add8_z ..) rfl rfl rfl⟩

/-- Settles O37: both forms finish `adc8` with the old Carry as its carry-in. -/
theorem adc8AddsWithCarryIn : Obligations.Adc8AddsWithCarryIn := by
  refine ⟨fun _ _ => decode_of_encode_eq (enc_rd_rs ..), fun _ _ => decode_of_encode_eq (enc_rd_imm8 ..),
    formFaults_src8_reg (op := .adc8) rfl rfl fun _ => rfl, formFaults_src8_imm (op := .adc8) rfl rfl fun _ => rfl,
    fun i rd v s form => ?_⟩
  rw [← toNat_carryIn_eq_ite]
  exact exec_alu8Effect (exec_adc8 form) (adc8_value ..) (adc8_z ..) rfl (adc8_h ..) (adc8_c ..)

/-- Settles O38: both forms finish `sub8`, which compares the unwrapped operands. -/
theorem sub8SubtractsAndSetsFourFlags : Obligations.Sub8SubtractsAndSetsFourFlags :=
  ⟨fun _ _ => decode_of_encode_eq (enc_rd_rs ..), fun _ _ => decode_of_encode_eq (enc_rd_imm8 ..),
    formFaults_src8_reg (op := .sub8) rfl rfl fun _ => rfl, formFaults_src8_imm (op := .sub8) rfl rfl fun _ => rfl,
    fun _ _ _ _ form => exec_alu8Effect (exec_sub8 form) (sub8_value ..) rfl rfl rfl rfl⟩

/-- Settles O39: both forms finish `sbc8` with the old Carry as its borrow-in, exact in all three tests. -/
theorem sbc8SubtractsWithCarryIn : Obligations.Sbc8SubtractsWithCarryIn := by
  refine ⟨fun _ _ => decode_of_encode_eq (enc_rd_rs ..), fun _ _ => decode_of_encode_eq (enc_rd_imm8 ..),
    formFaults_src8_reg (op := .sbc8) rfl rfl fun _ => rfl, formFaults_src8_imm (op := .sbc8) rfl rfl fun _ => rfl,
    fun i rd v s form => ?_⟩
  rw [← toNat_carryIn_eq_ite]
  exact exec_alu8Effect (exec_sbc8 form) (sbc8_value ..) rfl rfl rfl rfl

/-! ### The corner of SBC8 (R160) -/

/-- The difference a - b - cin is a multiple of 256 when it is 0, and otherwise only at 0 - 255 - 1 = -256. -/
theorem sbc8_z_ne_iff (a b : Byte) (cin : Bool) :
    (sbc8 a b cin).z ≠ decide ((sbc8 a b cin).value = 0) ↔ a = 0x00 ∧ b = 0xFF ∧ cin = true := by
  have stored : (sbc8 a b cin).value = 0 ↔ (a.toNat + 256 - (b.toNat + cin.toNat)) % 256 = 0 :=
    sbc8_value a b cin ▸ byte_eq_zero_iff _
  have zero : (sbc8 a b cin).z = decide (a.toNat = b.toNat + cin.toNat) := rfl
  rw [zero, ne_eq, decide_eq_decide, stored, ← BitVec.toNat_inj, ← BitVec.toNat_inj, ← Bool.toNat_eq_one]
  have := a.isLt
  have := b.isLt
  have := Bool.toNat_le cin
  change _ ↔ a.toNat = 0 ∧ b.toNat = 255 ∧ _
  omega

/-- Settles O40: the corner is where Zero and the stored value disagree, and there `sbc8` is run. -/
theorem sbc8ZeroCornerIsUnique : Obligations.Sbc8ZeroCornerIsUnique := by
  intro i rd v s form
  obtain ⟨t, ht, value, ⟨z, n, h, c⟩, -⟩ := finishAlu8_spec rd (sbc8 (readReg8 rd s) v (flag .carry s)) s
  refine ⟨t, (exec_sbc8 form).trans ht, ?_, fun ⟨ha, hb, hcin⟩ => ?_⟩
  · rw [z, value]
    exact sbc8_z_ne_iff ..
  · rw [ha, hb, hcin] at value z n h c
    exact ⟨value, z, n, h, c, readF_lowNibble t⟩

/-! ### Two commands in a row, and with Carry clear (R159) -/

theorem decrement8_value_increment8_value (a : Byte) (c c' : Bool) :
    (decrement8 (increment8 a c).value c').value = a := by
  rw [← BitVec.toNat_inj, decrement8_value, increment8_value]
  have := a.isLt
  omega

/-- Settles O41: DEC8 finds the incremented value, stores the old one and takes Zero and HalfCarry from it. -/
theorem incThenDecRestores : Obligations.IncThenDecRestores := by
  intro rd s
  obtain ⟨t, ht, tValue, ⟨-, tSubtract, -, tCarry⟩, -⟩ :=
    finishAlu8_spec rd (increment8 (readReg8 rd s) (flag .carry s)) s
  obtain ⟨u, hu, value, ⟨z, n, h, c⟩, -⟩ := finishAlu8_spec rd (decrement8 (readReg8 rd t) (flag .carry t)) t
  have restored : (decrement8 (readReg8 rd t) (flag .carry t)).value = readReg8 rd s :=
    tValue ▸ decrement8_value_increment8_value ..
  refine ⟨t, u, ht, hu, value.trans restored, tSubtract, n, ?_, ?_, c.trans tCarry⟩
  · exact restored ▸ z
  · exact restored ▸ h

theorem sub8_value_add8_value (a b : Byte) : (sub8 (add8 a b).value b).value = a := by
  rw [← BitVec.toNat_inj, sub8_value, add8_value]
  have := a.isLt
  have := b.isLt
  omega

theorem sub8_z_add8_value (a b : Byte) : (sub8 (add8 a b).value b).z = decide (a = 0) := by
  have zero : (sub8 (add8 a b).value b).z = decide ((add8 a b).value.toNat = b.toNat) := rfl
  have unchanged : (a.toNat + b.toNat) % 256 = b.toNat ↔ a.toNat = 0 := by
    have := a.isLt
    have := b.isLt
    omega
  rw [zero, add8_value]
  exact decide_eq_decide.mpr (unchanged.trans (byte_eq_zero_iff a).symm)

/-- Settles O42: SUB8 finds the sum, so it stores the first addend, and its flags are tests on the sum. -/
theorem addThenSubRestores : Obligations.AddThenSubRestores := by
  intro i rd v s form
  obtain ⟨t, ht, sum, -⟩ := finishAlu8_spec rd (add8 (readReg8 rd s) v) s
  refine ⟨t, (exec_add8 form).trans ht, fun j form' => ?_⟩
  obtain ⟨u, hu, value, ⟨z, n, h, c⟩, -⟩ := finishAlu8_spec rd (sub8 (readReg8 rd t) v) t
  refine ⟨u, (exec_sub8 form').trans hu, value.trans ?_, n, c, h, z.trans ?_⟩
  · exact sum ▸ sub8_value_add8_value ..
  · exact sum ▸ sub8_z_add8_value ..

/-- Settles O43: with Carry clear, ADC8 finishes what ADD8 does and SBC8 what SUB8 does. -/
theorem carryClearMakesAdcAddAndSbcSub : Obligations.CarryClearMakesAdcAddAndSbcSub := by
  intro s clear
  have adc (a b : Byte) : adc8 a b (flag .carry s) = add8 a b := clear ▸ adc8_false a b
  have sbc (a b : Byte) : sbc8 a b (flag .carry s) = sub8 a b := clear ▸ sbc8_false a b
  exact ⟨fun rd _ => ⟨congrArg (finishAlu8 rd · s) (adc ..), congrArg (finishAlu8 rd · s) (sbc ..)⟩,
    fun rd _ => ⟨congrArg (finishAlu8 rd · s) (adc ..), congrArg (finishAlu8 rd · s) (sbc ..)⟩⟩

end Sys2Proof.Machine

/-! PROOFS. The words of the commands that name 16-bit holders (30_encoding.md R72: W1, W2 and WI), for any op. -/

namespace Sys2Proof
open Sys2Proof.Claim

/-- The word of format WI: a holder and a word, with m = 1. -/
theorem enc_rd_imm16 (op : BitVec 5) (rd : BitVec 3) (v : Word) :
    enc op rd true 0 v = op.setWidth 32 <<< 27 ||| 0x00800000 ||| inRd rd ||| v.setWidth 32 := by
  rw [BitVec.or_assoc (op.setWidth 32 <<< 27), BitVec.or_comm 0x00800000, ← BitVec.or_assoc]
  simp [enc]

theorem formFaults_withR16 {c : BitVec 5} {m : Bool} {op : Op} {fmt : Format} {k : CmdWord → Reg16 → Instr}
    (ho : opcode? c = some op) (hf : op.format? m = some fmt)
    (operands : ∀ w, mField w = m → op.operands w = withR16 w (k w)) :
    FormFaults c m fmt.mbz (fun w => rdBits w ≥ 5) :=
  formFaults_of_format? ho hf fun w hm bad => (operands w hm).trans (withR16_bad bad _)

theorem formFaults_withR16R16 {c : BitVec 5} {m : Bool} {op : Op} {fmt : Format} {k : Reg16 → Reg16 → Instr}
    (ho : opcode? c = some op) (hf : op.format? m = some fmt)
    (operands : ∀ w, mField w = m → op.operands w = withR16R16 w k) :
    FormFaults c m fmt.mbz (fun w => rdBits w ≥ 5 ∨ rsBits w ≥ 5) :=
  formFaults_of_format? ho hf fun w hm bad => (operands w hm).trans (withR16R16_bad bad _)

/-- The operands of ADD16 by m (R74). -/
theorem operands_add16_reg {w : CmdWord} (hm : mField w = false) : Op.add16.operands w = withR16R16 w .add16Reg := by
  rw [Op.operands, hm, if_neg Bool.false_ne_true]

theorem operands_add16_imm {w : CmdWord} (hm : mField w = true) :
    Op.add16.operands w = withR16 w (.add16Imm · (imm16Field w)) := by
  rw [Op.operands, hm, if_pos rfl]

end Sys2Proof

/-! PROOFS. The 16-bit adder (43_alu16.md R181 to R186). INC16 and DEC16 write one holder and nothing else; ADD16 in
either form is `add16`. A sum of two pairs of bytes is the low bytes' sum and the high bytes' sum with the low one's
carry, and so are its two carry tests. -/

namespace Sys2Proof.Machine
open Sys2Proof.Claim

/-! ### Values as numbers (R10: exact, then truncated) -/

theorem inc16_value (x : Word) : (trunc16 ((x.toNat : Int) + 1)).toNat = (x.toNat + 1) % 65536 := by
  have := toNat_trunc16 ((x.toNat : Int) + 1)
  omega

theorem dec16_value (x : Word) : (trunc16 ((x.toNat : Int) - 1)).toNat = (x.toNat + 65535) % 65536 := by
  have := toNat_trunc16 ((x.toNat : Int) - 1)
  omega

theorem add16_value (x y : Word) : (trunc16 ((x.toNat : Int) + y.toNat)).toNat = (x.toNat + y.toNat) % 65536 := by
  have := toNat_trunc16 ((x.toNat : Int) + y.toNat)
  omega

/-! ### The effect of a command -/

/-- The effect of a command that writes one 16-bit holder, by the number it writes. -/
theorem exec_word16Effect {i : Instr} {rd : Reg16} {v : Word} {s : State} {value : Nat}
    (run : exec i s = finish (writeReg16 rd v s)) (hv : v.toNat = value) :
    ∃ t, exec i s = .next t ∧ Word16Effect rd s t value := by
  refine ⟨_, run, ?_, readF_writeReg16 .., fun r hr => ?_, fun r => by simp, by simp [SameControl], rfl⟩
  · rw [readReg16_driveQ, readReg16_writeReg16, hv]
  · rw [readReg16_driveQ, readReg16_writeReg16_of_ne hr]

theorem exec_inc16 (rd : Reg16) (s : State) :
    ∃ t, exec (.inc16 rd) s = .next t ∧ Word16Effect rd s t (((readReg16 rd s).toNat + 1) % 65536) :=
  exec_word16Effect rfl (inc16_value _)

theorem exec_dec16 (rd : Reg16) (s : State) :
    ∃ t, exec (.dec16 rd) s = .next t ∧ Word16Effect rd s t (((readReg16 rd s).toNat + 65535) % 65536) :=
  exec_word16Effect rfl (dec16_value _)

/-- The two forms of ADD16 differ in where the second operand comes from, and in nothing else (R74). -/
theorem exec_add16 {i : Instr} {rd : Reg16} {v : Word} {s : State} (form : Form16 i rd v s) :
    exec i s = add16 rd (readReg16 rd s) v s := by
  obtain ⟨rs, rfl, rfl⟩ | rfl := form
  · rfl
  · rfl

/-! ### Each command against the whole of its rule -/

/-- Settles O44: INC16 writes its destination and nothing else, F included. -/
theorem inc16TouchesNoFlag : Obligations.Inc16TouchesNoFlag :=
  ⟨fun _ => decode_of_encode_eq (enc_rd_only ..), noForm_of_format? (op := .inc16) rfl rfl,
    formFaults_withR16 (op := .inc16) (fmt := .w1) (k := fun _ => .inc16) rfl rfl fun _ _ => rfl, exec_inc16⟩

/-- DEC16 finds what INC16 stored and stores what INC16 found. -/
theorem dec16_after_inc16 {rd : Reg16} {s u : State} (h : exec (.inc16 rd) s = .next u) :
    ∃ v, exec (.dec16 rd) u = .next v ∧ readReg16 rd v = readReg16 rd s := by
  obtain ⟨u', hu', inc, -⟩ := exec_inc16 rd s
  obtain rfl : u = u' := Host.Outcome.next.inj (h.symm.trans hu')
  obtain ⟨v, hv, dec, -⟩ := exec_dec16 rd u
  refine ⟨v, hv, ?_⟩
  rw [← BitVec.toNat_inj, dec, inc]
  omega

/-- INC16 finds what DEC16 stored and stores what DEC16 found. -/
theorem inc16_after_dec16 {rd : Reg16} {s t : State} (h : exec (.dec16 rd) s = .next t) :
    ∃ u, exec (.inc16 rd) t = .next u ∧ readReg16 rd u = readReg16 rd s := by
  obtain ⟨t', ht', dec, -⟩ := exec_dec16 rd s
  obtain rfl : t = t' := Host.Outcome.next.inj (h.symm.trans ht')
  obtain ⟨u, hu, inc, -⟩ := exec_inc16 rd t
  refine ⟨u, hu, ?_⟩
  rw [← BitVec.toNat_inj, inc, dec]
  omega

/-- Settles O45: DEC16 writes its destination and nothing else, and the two commands undo each other modulo 65536. -/
theorem dec16TouchesNoFlag : Obligations.Dec16TouchesNoFlag := by
  refine ⟨fun _ => decode_of_encode_eq (enc_rd_only ..), noForm_of_format? (op := .dec16) rfl rfl,
    formFaults_withR16 (op := .dec16) (fmt := .w1) (k := fun _ => .dec16) rfl rfl fun _ _ => rfl, fun rd s => ?_⟩
  obtain ⟨t, ht, effect⟩ := exec_dec16 rd s
  exact ⟨t, ht, effect, inc16_after_dec16 ht, fun _ => dec16_after_inc16⟩

/-- Settles O46: both forms are `add16`, which writes single flags and so leaves Zero. -/
theorem add16AddsAndKeepsZero : Obligations.Add16AddsAndKeepsZero := by
  refine ⟨fun _ _ => decode_of_encode_eq (enc_rd_rs ..), fun _ _ => decode_of_encode_eq (enc_rd_imm16 ..),
    formFaults_withR16R16 (op := .add16) (fmt := .w2) rfl rfl fun _ => operands_add16_reg,
    formFaults_withR16 (op := .add16) (fmt := .wi) rfl rfl fun _ => operands_add16_imm, fun i rd v s form => ?_⟩
  obtain ⟨t, ht, sum, ⟨z, n, h, c⟩, frame⟩ := add16_spec rd (readReg16 rd s) v s
  exact ⟨t, (exec_add16 form).trans ht, sum ▸ add16_value .., z, n, h, c, readF_lowNibble t, frame⟩

/-! ### A sum of two words, byte by byte (R186) -/

theorem toNat_pair (hi lo : Byte) : (hi ++ lo).toNat = hi.toNat * 256 + lo.toNat := by
  rw [BitVec.toNat_append, ← Nat.shiftLeft_add_eq_or_of_lt lo.isLt, Nat.shiftLeft_eq]

theorem pair_of_word (y : Word) : y.extractLsb' 8 8 ++ y.extractLsb' 0 8 = y :=
  (BitVec.extractLsb'_append_extractLsb'_eq_extractLsb' rfl).trans BitVec.extractLsb'_eq_self

/-- The carry out of the low bytes as the number that enters the high ones. -/
theorem toNat_cyAdd8 (a b : Byte) : (cyAdd8 a b false).toNat = (a.toNat + b.toNat) / 256 := by
  have := a.isLt
  have := b.isLt
  rw [toNat_carryIn_eq_ite, cyAdd8, Bool.toNat_false, Nat.add_zero]
  simp only [decide_eq_true_eq]
  split
  · omega
  · omega

section
variable (xh xl yh yl : Byte)

theorem add16_pair : trunc16 (((xh ++ xl).toNat : Int) + (yh ++ yl).toNat) =
    (adc8 xh yh (cyAdd8 xl yl false)).value ++ (add8 xl yl).value := by
  rw [← BitVec.toNat_inj, add16_value, toNat_pair, toNat_pair, toNat_pair, adc8_value, add8_value, toNat_cyAdd8]
  omega

/-- The carry out of bit 11 is the high bytes' nibble carry. -/
theorem hcAdd16_pair : hcAdd16 (xh ++ xl) (yh ++ yl) = hcAdd xh yh (cyAdd8 xl yl false) := by
  rw [hcAdd16, hcAdd, low12, low12, lowNibble, lowNibble, toNat_pair, toNat_pair, toNat_cyAdd8, decide_eq_decide]
  have := xl.isLt
  have := yl.isLt
  omega

/-- The carry out of bit 15 is the high bytes' carry. -/
theorem cyAdd16_pair : cyAdd16 (xh ++ xl) (yh ++ yl) = cyAdd8 xh yh (cyAdd8 xl yl false) := by
  rw [cyAdd16, cyAdd8, toNat_pair, toNat_pair, toNat_cyAdd8, decide_eq_decide]
  have := xl.isLt
  have := yl.isLt
  omega

end

/-- Settles O47: ADC8 takes in the carry that ADD8 left, so the pair's results are ADD16's byte by byte; ADC8 computes
Zero from the high byte, and ADD16 writes none. -/
theorem bytePairAddEqualsAdd16ButForZero : Obligations.BytePairAddEqualsAdd16ButForZero := by
  intro i k hi lo rr y s ne pair form form16
  rw [← pair_of_word y] at form16
  generalize y.extractLsb' 8 8 = yh at form16 ⊢
  generalize y.extractLsb' 0 8 = yl at form form16 ⊢
  obtain ⟨t, ht, low, ⟨-, -, -, carry⟩, keptByLow, -⟩ := finishAlu8_spec lo (add8 (readReg8 lo s) yl) s
  obtain ⟨v, hv, sum, ⟨vz, vn, vh, vc⟩, -⟩ := add16_spec rr (readReg16 rr s) (yh ++ yl) s
  refine ⟨t, v, (exec_add8 form).trans ht, (exec_add16 form16).trans hv, fun j form' => ?_⟩
  have run := exec_adc8 form'
  rw [keptByLow hi ne, carry] at run
  obtain ⟨u, hu, high, ⟨uz, un, uh, uc⟩, keptByHigh, -⟩ :=
    finishAlu8_spec hi (adc8 (readReg8 hi s) yh (cyAdd8 (readReg8 lo s) yl false)) t
  rw [pair] at sum vh vc
  refine ⟨u, run.trans hu, ?_, vn.trans un.symm, ?_, ?_, high ▸ uz, vz⟩
  · rw [sum, add16_pair, high, keptByHigh lo ne.symm, low]
  · exact (vh.trans (hcAdd16_pair ..)).trans uh.symm
  · exact (vc.trans (cyAdd16_pair ..)).trans uc.symm

end Sys2Proof.Machine

/-! PROOFS. Register and flags access (44_access.md R200 to R205). A command that reads only drives q; WR8 and WR16 are
one write of a holder, and WRF is one write of F. -/

namespace Sys2Proof.Machine
open Sys2Proof.Claim

/-! ### The effect of a command that reads -/

/-- The output q is no state of the block (10_state.md R32). -/
theorem sameBlock_driveQ (q : Option Word) (s : State) : SameBlock s (driveQ q s) :=
  ⟨fun _ => readReg8_driveQ .., fun _ => readReg16_driveQ .., rfl, rfl, rfl⟩

theorem sameControl_driveQ (q : Option Word) (s : State) : SameControl s (driveQ q s) := ⟨rfl, rfl, rfl, rfl, rfl⟩

/-- A command that ends by driving `v` changes nothing else. -/
theorem exec_readEffect {i : Instr} {v : Word} {s : State} (run : exec i s = finishWith v s) :
    ∃ t, exec i s = .next t ∧ t.q = some v ∧ SameBlock s t ∧ SameControl s t :=
  ⟨_, run, rfl, sameBlock_driveQ .., sameControl_driveQ ..⟩

/-- A byte zero-extended to a word leaves q[15:8] zero. -/
theorem zext16_highByte (v : Byte) : (v.setWidth 16).extractLsb' 8 8 = 0 := by
  rw [BitVec.setWidth_eq_append (by decide)]
  exact BitVec.extractLsb'_append_eq_left

/-! ### Each command against the whole of its rule -/

/-- Settles O48: RD8 drives the holder's byte zero-extended, which is the same number. -/
theorem rd8DrivesTheHolder : Obligations.Rd8DrivesTheHolder := by
  refine ⟨fun _ => decode_of_encode_eq (enc_rd_only ..), noForm_of_format? (op := .rd8) rfl rfl,
    formFaults_withR8 (op := .rd8) (fmt := .r1) (k := fun _ => .rd8) rfl rfl fun _ _ => rfl, fun rd s => ?_⟩
  obtain ⟨t, ht, q, frame⟩ := exec_readEffect (i := .rd8 rd) (s := s) rfl
  exact ⟨t, _, ht, q, BitVec.toNat_setWidth_of_le (by decide), frame⟩

/-- Settles O49: WR8 is one write of its destination, which every other holder and F read past. -/
theorem wr8WritesTheHolderOnly : Obligations.Wr8WritesTheHolderOnly := by
  refine ⟨fun _ _ => decode_of_encode_eq (enc_rd_imm8 ..), noForm_of_format? (op := .wr8) rfl rfl,
    formFaults_withR8 (op := .wr8) (fmt := .ri) (k := fun w => (.wr8 · (imm8Field w))) rfl rfl fun _ _ => rfl,
    fun rd v s => ⟨_, rfl, ?_, readF_writeReg8 .., fun r hr => ?_, fun r => by simp, by simp [SameControl], rfl⟩⟩
  · rw [readReg8_driveQ, readReg8_writeReg8]
  · rw [readReg8_driveQ, readReg8_writeReg8_of_ne hr]

/-- Settles O50: RD16 drives the holder's word as it is. -/
theorem rd16DrivesTheHolder : Obligations.Rd16DrivesTheHolder :=
  ⟨fun _ => decode_of_encode_eq (enc_rd_only ..), noForm_of_format? (op := .rd16) rfl rfl,
    formFaults_withR16 (op := .rd16) (fmt := .w1) (k := fun _ => .rd16) rfl rfl fun _ _ => rfl,
    fun _ _ => exec_readEffect rfl⟩

/-- Settles O51: WR16 has the effect of a 16-bit command that touches no flag, and the number it writes is the
operand's. -/
theorem wr16WritesTheHolderOnly : Obligations.Wr16WritesTheHolderOnly := by
  refine ⟨fun _ _ => decode_of_encode_eq (enc_rd_imm16 ..), noForm_of_format? (op := .wr16) rfl rfl,
    formFaults_withR16 (op := .wr16) (fmt := .wi) (k := fun w => (.wr16 · (imm16Field w))) rfl rfl fun _ _ => rfl,
    fun rd v s => ?_⟩
  obtain ⟨t, ht, value, frame⟩ := exec_word16Effect (i := .wr16 rd v) (s := s) rfl rfl
  exact ⟨t, ht, BitVec.eq_of_toNat_eq value, frame⟩

/-- Settles O52: RDF drives F zero-extended, so the low nibble is the one tied to zero, and the bit at a flag's position
is the flag that CHECK answers. -/
theorem rdfDrivesTheFlagsByte : Obligations.RdfDrivesTheFlagsByte := by
  refine ⟨decode_of_encode_eq (i := .rdf) rfl, noForm_of_format? (op := .rdf) rfl rfl,
    formFaults_of_noSelector (op := .rdf) (fmt := .n) rfl rfl, fun s => ?_⟩
  obtain ⟨t, ht, q, frame⟩ := exec_readEffect (i := .rdf) (s := s) rfl
  have lowNibble : ((readF s).setWidth 16).extractLsb' 0 4 = 0 := by
    rw [BitVec.extractLsb'_setWidth_of_le (by decide), readF_lowNibble]
  exact ⟨t, _, ht, q, BitVec.toNat_setWidth_of_le (by decide), zext16_highByte _, lowNibble,
    fun f => exec_check_of_flag (getLsbD_setWidth_readF f s).symm, frame⟩

/-- Settles O53: the masked operand is read back as it is, and WRF's row of the table writes each flag with its own bit
of the operand. -/
theorem wrfWritesFourFlagsAndMasks : Obligations.WrfWritesFourFlagsAndMasks := by
  refine ⟨fun v => decode_of_encode_eq (enc_rd_imm8 _ 0 v), noForm_of_format? (op := .wrf) rfl rfl,
    formFaults_of_noSelector (op := .wrf) (fmt := .fi) rfl rfl,
    fun v s => ⟨_, rfl, ?_, exec_obeysRule (i := .wrf v) rfl, readF_lowNibble _, onlyF_driveQ_writeF _ s⟩⟩
  rw [readF_driveQ, readF_writeF, BitVec.and_assoc, BitVec.and_self]

end Sys2Proof.Machine

/-! PROOFS. The one exception (60_exceptions.md R220 to R223, R234): what raises it, what it changes, how a faulted
block stays stuck, and that a legal program never meets it. -/

namespace Sys2Proof.Machine

/-! ### The sample of the next step -/

/-- What holds of the idle sample and of the samples still to come holds of the one that the step takes. -/
theorem nextSample_of_take {ok : PortSample → Prop} {k : Nat} {s : State} (idle : ok idleSample)
    (h : ∀ p ∈ s.inputs.take (k + 1), ok p) : ok (nextSample s) := by
  cases hs : s.inputs with
  | nil => rwa [nextSample_of_nil hs]
  | cons p rest =>
    rw [nextSample_of_cons hs]
    exact h p (by simp [hs])

/-! ### No command raises the exception -/

/-- Settles O16: both clauses are part of every command's frame. -/
theorem everyCommandCompletesWithoutFault : Obligations.EveryCommandCompletesWithoutFault := by
  intro i s
  obtain ⟨t, ht, frame⟩ := exec_frame i s
  exact ⟨t, ht, frame.control⟩

/-! ### An illegal word raises it -/

theorem step_illegal {s : State} {c : FaultCause} (hr : (nextSample s).rst = false)
    (hv : (nextSample s).cmdValid = true) (hf : s.fault = false) (hd : decode (nextSample s).cmd = .error c) :
    step s = .next (driveQ none (latchFault c (takeSample s))) :=
  (step_command hr hv hf).trans (runCommand_error hd _)

/-- Settles O13: the step latches the fault over the state with the sample taken off, and every accessor of the block
reads past both. -/
theorem illegalWordOnlySetsTheFaultLatch : Obligations.IllegalWordOnlySetsTheFaultLatch := by
  intro s p rest c hs hr hv hf hd
  rw [← nextSample_of_cons hs] at hr hv hd
  refine ⟨_, step_illegal hr hv hf hd, rfl, ?_, rfl, fun r => ?_, fun r => ?_, rfl, rfl, ?_, rfl, rfl⟩
  · cases c <;> rfl
  · rw [readReg8_driveQ, readReg8_latchFault, readReg8_takeSample]
  · rw [readReg16_driveQ, readReg16_latchFault, readReg16_takeSample]
  · exact congrArg List.tail hs

/-! ### A faulted block is stuck -/

theorem step_stuck_of_take {k : Nat} {s : State} (hf : s.fault = true)
    (hr : ∀ p ∈ s.inputs.take (k + 1), p.rst = false) : step s = .next (driveQ none (takeSample s)) :=
  step_stuck (nextSample_of_take (ok := (·.rst = false)) rfl hr) hf

/-- While no sample asserts `rst`, all that a run changes of a faulted block is the samples, used up one per step, and
q, from the first step on. -/
theorem run_stuck (k : Nat) {s : State} (hf : s.fault = true)
    (hr : ∀ p ∈ s.inputs.take (k + 1), p.rst = false) :
    core.run (k + 1) s = .next (driveQ none (withInputs (s.inputs.drop (k + 1)) s)) := by
  induction k generalizing s with
  | zero =>
    rw [run_succ_of_next (step_stuck_of_take hf hr), List.drop_one]
    rfl
  | succ k ih =>
    have later : ∀ p ∈ s.inputs.tail.take (k + 1), p.rst = false := by
      intro p hp
      refine hr p (List.mem_of_mem_tail ?_)
      rw [List.tail_take_eq_take_tail]
      exact hp
    rw [run_succ_of_next (step_stuck_of_take hf hr), ← List.drop_tail]
    exact ih (s := driveQ none (takeSample s)) hf later

/-- Settles O14: a run of no step answers the state itself, a run of one or more is that of a stuck block, and reset
clears both latches. -/
theorem faultedBlockIsStuckUntilReset : Obligations.FaultedBlockIsStuckUntilReset := by
  refine ⟨fun k s hf hr => ?_, fun s p rest hs hr => ?_⟩
  · cases k with
    | zero =>
      have same : SameBlock s s := ⟨fun _ => rfl, fun _ => rfl, rfl, rfl, rfl⟩
      exact ⟨s, run_zero s, same, rfl, fun h => absurd h (Nat.lt_irrefl 0)⟩
    | succ k => exact ⟨_, run_stuck k hf hr, sameBlock_driveQ none s, rfl, fun _ => rfl⟩
  · rw [← nextSample_of_cons hs] at hr
    exact ⟨_, step_reset hr, resetBlock_fault _, resetBlock_fcause _⟩

/-! ### A legal program never meets the exception -/

theorem exists_decode_of_legal {p : PortSample} (legal : p.legal = true) (hr : p.rst = false)
    (hv : p.cmdValid = true) : ∃ i, decode p.cmd = .ok i := by
  obtain ⟨-, -, -, wellFormed⟩ := decode_agrees_with_checks p.cmd
  exact wellFormed.mpr (by simpa [PortSample.legal, hr, hv] using legal)

/-- A step on a legal sample keeps FAULT at 0 and takes off that sample. -/
theorem step_legal {s : State} (hf : NoFault s) (legal : (nextSample s).legal = true) :
    ∃ t, step s = .next t ∧ NoFault t ∧ t.inputs = s.inputs.tail := by
  obtain ⟨-, e⟩ | ⟨-, -, e⟩ | ⟨hr, hv, -, ⟨i, -, e⟩ | ⟨c, hc, -⟩⟩ := step_cases s
  · exact ⟨_, e, rfl, rfl⟩
  · exact ⟨_, e, hf, rfl⟩
  · obtain ⟨t, ht, frame⟩ := exec_frame i (takeSample s)
    obtain ⟨fault, -, inputs, -⟩ := frame.control
    exact ⟨t, e.trans ht, fault.trans hf, inputs⟩
  · obtain ⟨i, hi⟩ := exists_decode_of_legal legal hr hv
    cases hc.symm.trans hi

theorem run_legal (k : Nat) {s : State} (hf : NoFault s) (legal : LegalProgram s) :
    ∃ t, core.run k s = .next t ∧ NoFault t ∧ t.inputs = s.inputs.drop k := by
  induction k generalizing s with
  | zero => exact ⟨s, run_zero s, hf, rfl⟩
  | succ k ih =>
    have all : ∀ p ∈ s.inputs, p.legal = true := List.all_eq_true.mp legal
    obtain ⟨u, hu, hfu, inputs⟩ := step_legal hf
      (nextSample_of_take (ok := (·.legal = true)) (k := 0) rfl fun p hp => all p (List.mem_of_mem_take hp))
    have legalRest : LegalProgram u := by
      rw [LegalProgram, inputs]
      exact List.all_eq_true.mpr fun p hp => all p (List.mem_of_mem_tail hp)
    rw [run_succ_of_next hu, ← List.drop_tail, ← inputs]
    exact ih hfu legalRest

/-- Settles O18: a run over legal samples keeps FAULT at 0, and once it has used them all up it is a normal end. -/
theorem legalProgramNeverFaults : Obligations.LegalProgramNeverFaults := by
  intro k s hf legal
  obtain ⟨t, ht, hft, inputs⟩ := run_legal k hf legal
  exact ⟨t, ht, hft, inputs, fun enough => ⟨inputs.trans (List.drop_eq_nil_of_le enough), hft⟩⟩

end Sys2Proof.Machine

/-! PROOFS. Reset and the absence of hazards (70_reset_and_hazards.md R250, R263): what reset keeps of a block, and that
no step waits. -/

namespace Sys2Proof.Machine

/-! ### Reset keeps no holder -/

/-- All that reaches the state after a reset is the count of the resets, the flag binding and the samples behind. -/
theorem step_reset_of_cons {s : State} {p : PortSample} {rest : List PortSample} (hs : s.inputs = p :: rest)
    (hr : p.rst = true) :
    step s = .next (withInputs rest (State.afterReset s.flagPos (s.resetCount + 1))) := by
  rw [← nextSample_of_cons hs] at hr
  rw [step_reset hr, takeSample_of_cons hs]
  rfl

/-- Settles O15: the state after reset is written without the old holders, flags, latches or command, so two blocks with
one count and one binding reach the same one. -/
theorem resetWinsAndKeepsNoHolder : Obligations.ResetWinsAndKeepsNoHolder := by
  intro s p rest hs hr
  refine ⟨_, step_reset_of_cons hs hr, rfl, rfl, readF_lowNibble _, rfl, rfl, rfl, ?_⟩
  intro s' p' hs' hr' count binding
  rw [step_reset_of_cons hs' hr', count, binding]

/-! ### No step waits -/

/-- Settles O17, case by case of a step: reset, idling and a fault leave the samples behind as they are, and so does
every command, by its frame. -/
theorem everyStepCompletes : Obligations.EveryStepCompletes := by
  intro s
  obtain ⟨-, e⟩ | ⟨-, -, e⟩ | ⟨-, -, -, ⟨i, -, e⟩ | ⟨c, -, e⟩⟩ := step_cases s
  · exact ⟨_, e, rfl⟩
  · exact ⟨_, e, rfl⟩
  · obtain ⟨t, ht, frame⟩ := exec_frame i (takeSample s)
    obtain ⟨-, -, inputs, -⟩ := frame.control
    exact ⟨t, e.trans ht, inputs⟩
  · exact ⟨_, e, rfl⟩

end Sys2Proof.Machine
